-- ==== Sys2Proof/Word.lean ====
section
/-! DEFINITION. The value types of the machine: bytes, 16-bit words, 12-bit addresses, register and key indices
(spec/00_scope.md R6: every value is unsigned). -/

namespace Sys2Proof

/-- A memory cell, a general register, a timer: 8 bits (R4). -/
abbrev Byte := BitVec 8

/-- An instruction word, `PC`, `I`, a stack slot: 16 bits (R4). -/
abbrev Word := BitVec 16

/-- The `nnn` field: a 12-bit address or immediate (R61). -/
abbrev Addr12 := BitVec 12

/-- The index of a general register, `V[0x0]` to `V[0xF]` (R11). -/
abbrev Reg := Fin 16

/-- The index of a key, 0 to 15 (R17). -/
abbrev Key := Fin 16

/-- `zext_16` of an immediate or a byte (R6, R63). -/
abbrev zext16 {w : Nat} (v : BitVec w) : Word := v.setWidth 16

end Sys2Proof
end

