-- ==== Sys2Proof/Syntax.lean ====
section
/-! DEFINITION. The 34 instructions of spec/30_encoding.md R65 as data, their table names and their assembler spelling
(R69). Operands carry their range in their type (R61, R63), so every `Instr` is one the encoding can express. -/

namespace Sys2Proof

/-- One constructor per row of R65, operands in the order of the assembler spelling of R69.
`x`, `y` name registers, `nn` a byte, `nnn` a 12-bit address, `n` a row count 0..15. -/
inductive Instr where
  /-- 00E0, R80 -/
  | cls
  /-- 00EE, R81 -/
  | ret
  /-- 1nnn, R82 -/
  | jp (nnn : Addr12)
  /-- 2nnn, R83 -/
  | call (nnn : Addr12)
  /-- 3xnn, R90 -/
  | seImm (x : Reg) (nn : Byte)
  /-- 4xnn, R91 -/
  | sneImm (x : Reg) (nn : Byte)
  /-- 5xy0, R92 -/
  | seReg (x y : Reg)
  /-- 9xy0, R93 -/
  | sneReg (x y : Reg)
  /-- 6xnn, R100 -/
  | ldImm (x : Reg) (nn : Byte)
  /-- 7xnn, R101 -/
  | addImm (x : Reg) (nn : Byte)
  /-- 8xy0, R110 -/
  | ldReg (x y : Reg)
  /-- 8xy1, R111 -/
  | or (x y : Reg)
  /-- 8xy2, R112 -/
  | and (x y : Reg)
  /-- 8xy3, R113 -/
  | xor (x y : Reg)
  /-- 8xy4, R114 -/
  | addReg (x y : Reg)
  /-- 8xy5, R115 -/
  | sub (x y : Reg)
  /-- 8xy6, R116; `y` is in the word and takes no part (R67; log 10) -/
  | shr (x y : Reg)
  /-- 8xy7, R117 -/
  | subn (x y : Reg)
  /-- 8xyE, R118; `y` is in the word and takes no part (R67; log 10) -/
  | shl (x y : Reg)
  /-- Annn, R130 -/
  | ldI (nnn : Addr12)
  /-- Bnnn, R131 -/
  | jpV0 (nnn : Addr12)
  /-- Cxnn, R132 -/
  | rnd (x : Reg) (nn : Byte)
  /-- Dxyn, R140 -/
  | drw (x y : Reg) (n : Fin 16)
  /-- Ex9E, R150 -/
  | skp (x : Reg)
  /-- ExA1, R151 -/
  | sknp (x : Reg)
  /-- Fx07, R160 -/
  | ldVxDt (x : Reg)
  /-- Fx0A, R161 -/
  | ldVxK (x : Reg)
  /-- Fx15, R162 -/
  | ldDtVx (x : Reg)
  /-- Fx18, R163 -/
  | ldStVx (x : Reg)
  /-- Fx1E, R164 -/
  | addI (x : Reg)
  /-- Fx29, R165 -/
  | ldF (x : Reg)
  /-- Fx33, R166 -/
  | ldB (x : Reg)
  /-- Fx55, R167 -/
  | ldMemV (x : Reg)
  /-- Fx65, R168 -/
  | ldVMem (x : Reg)
  deriving DecidableEq, Repr

/-- The unique mnemonics of R65, the keys of the opcode table. -/
inductive Mnemonic where
  | cls | ret | jp | call | seImm | sneImm | seReg | sneReg | ldImm | addImm
  | ldReg | or | and | xor | addReg | sub | shr | subn | shl
  | ldI | jpV0 | rnd | drw | skp | sknp
  | ldVxDt | ldVxK | ldDtVx | ldStVx | addI | ldF | ldB | ldMemV | ldVMem
  deriving DecidableEq, Repr

/-- All mnemonics, in the order of R65. -/
def Mnemonic.all : List Mnemonic :=
  [.cls, .ret, .jp, .call, .seImm, .sneImm, .seReg, .sneReg, .ldImm, .addImm] ++
  [.ldReg, .or, .and, .xor, .addReg, .sub, .shr, .subn, .shl] ++
  [.ldI, .jpV0, .rnd, .drw, .skp, .sknp] ++
  [.ldVxDt, .ldVxK, .ldDtVx, .ldStVx, .addI, .ldF, .ldB, .ldMemV, .ldVMem]

/-- The row of R65 an instruction belongs to. -/
def Instr.mnemonic : Instr → Mnemonic
  | .cls => .cls | .ret => .ret | .jp _ => .jp | .call _ => .call
  | .seImm _ _ => .seImm | .sneImm _ _ => .sneImm | .seReg _ _ => .seReg | .sneReg _ _ => .sneReg
  | .ldImm _ _ => .ldImm | .addImm _ _ => .addImm
  | .ldReg _ _ => .ldReg | .or _ _ => .or | .and _ _ => .and | .xor _ _ => .xor
  | .addReg _ _ => .addReg | .sub _ _ => .sub | .shr _ _ => .shr | .subn _ _ => .subn | .shl _ _ => .shl
  | .ldI _ => .ldI | .jpV0 _ => .jpV0 | .rnd _ _ => .rnd | .drw _ _ _ => .drw
  | .skp _ => .skp | .sknp _ => .sknp
  | .ldVxDt _ => .ldVxDt | .ldVxK _ => .ldVxK | .ldDtVx _ => .ldDtVx | .ldStVx _ => .ldStVx
  | .addI _ => .addI | .ldF _ => .ldF | .ldB _ => .ldB | .ldMemV _ => .ldMemV | .ldVMem _ => .ldVMem

/-- The operands an assembler line of R69 spells, as numbers, in its order (`SHR Vx` and `SHL Vx` spell one). -/
def Instr.operands : Instr → List Nat
  | .cls | .ret => []
  | .jp nnn | .call nnn | .ldI nnn | .jpV0 nnn => [nnn.toNat]
  | .seImm x nn | .sneImm x nn | .ldImm x nn | .addImm x nn | .rnd x nn => [x.val, nn.toNat]
  | .seReg x y | .sneReg x y | .ldReg x y | .or x y | .and x y | .xor x y
  | .addReg x y | .sub x y | .subn x y => [x.val, y.val]
  | .shr x _ | .shl x _ => [x.val]
  | .drw x y n => [x.val, y.val, n.val]
  | .skp x | .sknp x | .ldVxDt x | .ldVxK x | .ldDtVx x | .ldStVx x
  | .addI x | .ldF x | .ldB x | .ldMemV x | .ldVMem x => [x.val]

/-- One hexadecimal digit, for the low nibble of a number. -/
def hexDigit (n : Nat) : String :=
  ["0", "1", "2", "3", "4", "5", "6", "7", "8", "9", "A", "B", "C", "D", "E", "F"].getD (n % 16) "0"

/-- The register names `V0`..`VF` of R69. -/
def Reg.asm (x : Reg) : String := "V" ++ hexDigit x.val

/-- A byte, an address and a nibble as hexadecimal literals; R69 fixes no radix (log 12). -/
def asmByte (v : Byte) : String := "0x" ++ hexDigit (v.toNat / 16) ++ hexDigit v.toNat
/-- See `asmByte`. -/
def asmAddr (v : Addr12) : String :=
  "0x" ++ hexDigit (v.toNat / 256) ++ hexDigit (v.toNat / 16) ++ hexDigit v.toNat
/-- See `asmByte`. -/
def asmNibble (n : Fin 16) : String := "0x" ++ hexDigit n.val

/-- The assembler spelling of R69. No meaning depends on it (D21). -/
def Instr.asm : Instr → String
  | .cls => "CLS"
  | .ret => "RET"
  | .jp nnn => "JP " ++ asmAddr nnn
  | .call nnn => "CALL " ++ asmAddr nnn
  | .seImm x nn => "SE " ++ Reg.asm x ++ ", " ++ asmByte nn
  | .sneImm x nn => "SNE " ++ Reg.asm x ++ ", " ++ asmByte nn
  | .seReg x y => "SE " ++ Reg.asm x ++ ", " ++ Reg.asm y
  | .sneReg x y => "SNE " ++ Reg.asm x ++ ", " ++ Reg.asm y
  | .ldImm x nn => "LD " ++ Reg.asm x ++ ", " ++ asmByte nn
  | .addImm x nn => "ADD " ++ Reg.asm x ++ ", " ++ asmByte nn
  | .ldReg x y => "LD " ++ Reg.asm x ++ ", " ++ Reg.asm y
  | .or x y => "OR " ++ Reg.asm x ++ ", " ++ Reg.asm y
  | .and x y => "AND " ++ Reg.asm x ++ ", " ++ Reg.asm y
  | .xor x y => "XOR " ++ Reg.asm x ++ ", " ++ Reg.asm y
  | .addReg x y => "ADD " ++ Reg.asm x ++ ", " ++ Reg.asm y
  | .sub x y => "SUB " ++ Reg.asm x ++ ", " ++ Reg.asm y
  | .shr x _ => "SHR " ++ Reg.asm x
  | .subn x y => "SUBN " ++ Reg.asm x ++ ", " ++ Reg.asm y
  | .shl x _ => "SHL " ++ Reg.asm x
  | .ldI nnn => "LD I, " ++ asmAddr nnn
  | .jpV0 nnn => "JP V0, " ++ asmAddr nnn
  | .rnd x nn => "RND " ++ Reg.asm x ++ ", " ++ asmByte nn
  | .drw x y n => "DRW " ++ Reg.asm x ++ ", " ++ Reg.asm y ++ ", " ++ asmNibble n
  | .skp x => "SKP " ++ Reg.asm x
  | .sknp x => "SKNP " ++ Reg.asm x
  | .ldVxDt x => "LD " ++ Reg.asm x ++ ", DT"
  | .ldVxK x => "LD " ++ Reg.asm x ++ ", K"
  | .ldDtVx x => "LD DT, " ++ Reg.asm x
  | .ldStVx x => "LD ST, " ++ Reg.asm x
  | .addI x => "ADD I, " ++ Reg.asm x
  | .ldF x => "LD F, " ++ Reg.asm x
  | .ldB x => "LD B, " ++ Reg.asm x
  | .ldMemV x => "LD [I], " ++ Reg.asm x
  | .ldVMem x => "LD " ++ Reg.asm x ++ ", [I]"

end Sys2Proof
end

