-- ==== Sys2Proof/WellFormed.lean ====
section
/-! DEFINITION. What a well-formed instruction is before it is decoded: a word that selects a row of the opcode map
(spec/30_encoding.md R65, R66), and an assembler line whose operands fit their fields (R69). The map is written here as
the table of R65 (match, mask, fields), apart from the case analysis of R64 that Decode.lean follows. -/

namespace Sys2Proof

/-- One row of R65: a word `w` selects it when `w & mask = match`; `fields` are the bit places (hi, lo) of the operands
an assembler line spells (R62, R69). -/
structure OpcodeRow where
  pattern : Word
  mask : Word
  fields : List (Nat × Nat)
  deriving DecidableEq, Repr

/-- Operand fields of the formats of R62: `A`, `XK`, `XYS`, `XYN`, `XS`. -/
abbrev fieldsA : List (Nat × Nat) := [(11, 0)]
/-- See `fieldsA`. -/
abbrev fieldsXK : List (Nat × Nat) := [(11, 8), (7, 0)]
/-- See `fieldsA`. -/
abbrev fieldsXY : List (Nat × Nat) := [(11, 8), (7, 4)]
/-- See `fieldsA`. -/
abbrev fieldsXYN : List (Nat × Nat) := [(11, 8), (7, 4), (3, 0)]
/-- See `fieldsA`. -/
abbrev fieldsX : List (Nat × Nat) := [(11, 8)]

/-- The opcode map of R65, row by row. -/
def Mnemonic.row : Mnemonic → OpcodeRow
  | .cls => ⟨0x00E0, 0xFFFF, []⟩
  | .ret => ⟨0x00EE, 0xFFFF, []⟩
  | .jp => ⟨0x1000, 0xF000, fieldsA⟩
  | .call => ⟨0x2000, 0xF000, fieldsA⟩
  | .seImm => ⟨0x3000, 0xF000, fieldsXK⟩
  | .sneImm => ⟨0x4000, 0xF000, fieldsXK⟩
  | .seReg => ⟨0x5000, 0xF00F, fieldsXY⟩
  | .sneReg => ⟨0x9000, 0xF00F, fieldsXY⟩
  | .ldImm => ⟨0x6000, 0xF000, fieldsXK⟩
  | .addImm => ⟨0x7000, 0xF000, fieldsXK⟩
  | .ldReg => ⟨0x8000, 0xF00F, fieldsXY⟩
  | .or => ⟨0x8001, 0xF00F, fieldsXY⟩
  | .and => ⟨0x8002, 0xF00F, fieldsXY⟩
  | .xor => ⟨0x8003, 0xF00F, fieldsXY⟩
  | .addReg => ⟨0x8004, 0xF00F, fieldsXY⟩
  | .sub => ⟨0x8005, 0xF00F, fieldsXY⟩
  | .shr => ⟨0x8006, 0xF00F, fieldsX⟩
  | .subn => ⟨0x8007, 0xF00F, fieldsXY⟩
  | .shl => ⟨0x800E, 0xF00F, fieldsX⟩
  | .ldI => ⟨0xA000, 0xF000, fieldsA⟩
  | .jpV0 => ⟨0xB000, 0xF000, fieldsA⟩
  | .rnd => ⟨0xC000, 0xF000, fieldsXK⟩
  | .drw => ⟨0xD000, 0xF000, fieldsXYN⟩
  | .skp => ⟨0xE09E, 0xF0FF, fieldsX⟩
  | .sknp => ⟨0xE0A1, 0xF0FF, fieldsX⟩
  | .ldVxDt => ⟨0xF007, 0xF0FF, fieldsX⟩
  | .ldVxK => ⟨0xF00A, 0xF0FF, fieldsX⟩
  | .ldDtVx => ⟨0xF015, 0xF0FF, fieldsX⟩
  | .ldStVx => ⟨0xF018, 0xF0FF, fieldsX⟩
  | .addI => ⟨0xF01E, 0xF0FF, fieldsX⟩
  | .ldF => ⟨0xF029, 0xF0FF, fieldsX⟩
  | .ldB => ⟨0xF033, 0xF0FF, fieldsX⟩
  | .ldMemV => ⟨0xF055, 0xF0FF, fieldsX⟩
  | .ldVMem => ⟨0xF065, 0xF0FF, fieldsX⟩

/-- "A word `w` selects the row for which `w & mask = match`" (R65). -/
def OpcodeRow.selects (r : OpcodeRow) (w : Word) : Bool := w &&& r.mask == r.pattern

/-- A word is legal when it selects a row (R66). -/
def legalWord (w : Word) : Bool := Mnemonic.all.any fun m => m.row.selects w

/-- An assembler line before its operands are checked (R69). -/
structure AsmLine where
  mnemonic : Mnemonic
  operands : List Nat
  deriving DecidableEq, Repr

/-- The line that spells an instruction. -/
def Instr.line (i : Instr) : AsmLine := ⟨i.mnemonic, i.operands⟩

/-- One operand per field, each a number that fits it: "numbers that must fit the field" (R69). -/
def operandsFit : List (Nat × Nat) → List Nat → Bool
  | [], [] => true
  | (hi, lo) :: fs, v :: vs => decide (v < 2 ^ (hi - lo + 1)) && operandsFit fs vs
  | _, _ => false

/-- A line is well formed when its operands are as many as its row's fields and each fits. -/
def AsmLine.wellFormed (l : AsmLine) : Bool := operandsFit l.mnemonic.row.fields l.operands

/-- The operands put into their fields. -/
def placeFields : List (Nat × Nat) → List Nat → Word
  | (_, lo) :: fs, v :: vs => (BitVec.ofNat 16 v <<< lo) ||| placeFields fs vs
  | _, _ => 0

/-- The word a line assembles to: the row's fixed bits with the operands in their fields. -/
def AsmLine.word (l : AsmLine) : Word := l.mnemonic.row.pattern ||| placeFields l.mnemonic.row.fields l.operands

end Sys2Proof
end

