-- ==== Sys2Proof/Decode.lean ====
section
/-! DEFINITION. The decoder (spec/30_encoding.md R64), total on any bytes and rejecting by name, and after it the encoder
(R62, R65). -/

namespace Sys2Proof

/-! ### Fields (R61) -/

/-- `op = w[15:12]`, the family. -/
def opOf (w : Word) : Nat := (w.extractLsb' 12 4).toNat
/-- `x = w[11:8]`. -/
def xOf (w : Word) : Reg := (w.extractLsb' 8 4).toFin
/-- `y = w[7:4]`. -/
def yOf (w : Word) : Reg := (w.extractLsb' 4 4).toFin
/-- `n = w[3:0]`. -/
def nOf (w : Word) : Fin 16 := (w.extractLsb' 0 4).toFin
/-- `nn = w[7:0]`. -/
def nnOf (w : Word) : Byte := w.extractLsb' 0 8
/-- `nnn = w[11:0]`. -/
def nnnOf (w : Word) : Addr12 := w.extractLsb' 0 12

/-! ### Decode (R64) -/

/-- Family 0 is matched on the whole word (R64). -/
def decodeFamily0 (w : Word) : Option Instr :=
  if w = 0x00E0 then some .cls else if w = 0x00EE then some .ret else none

/-- Family 8, by the low nibble (R64). -/
def decodeFamily8 (x y : Reg) (n : Nat) : Option Instr :=
  match n with
  | 0x0 => some (.ldReg x y)
  | 0x1 => some (.or x y)
  | 0x2 => some (.and x y)
  | 0x3 => some (.xor x y)
  | 0x4 => some (.addReg x y)
  | 0x5 => some (.sub x y)
  | 0x6 => some (.shr x y)
  | 0x7 => some (.subn x y)
  | 0xE => some (.shl x y)
  | _ => none

/-- Family E, by the low byte (R64). -/
def decodeFamilyE (x : Reg) (nn : Nat) : Option Instr :=
  match nn with
  | 0x9E => some (.skp x)
  | 0xA1 => some (.sknp x)
  | _ => none

/-- Family F, by the low byte (R64). -/
def decodeFamilyF (x : Reg) (nn : Nat) : Option Instr :=
  match nn with
  | 0x07 => some (.ldVxDt x)
  | 0x0A => some (.ldVxK x)
  | 0x15 => some (.ldDtVx x)
  | 0x18 => some (.ldStVx x)
  | 0x1E => some (.addI x)
  | 0x29 => some (.ldF x)
  | 0x33 => some (.ldB x)
  | 0x55 => some (.ldMemV x)
  | 0x65 => some (.ldVMem x)
  | _ => none

/-- `Decode(w)` of R64; `none` is `illegal`. The last arm is never reached: the family is four bits. -/
def decodeWord (w : Word) : Option Instr :=
  match opOf w with
  | 0x0 => decodeFamily0 w
  | 0x1 => some (.jp (nnnOf w))
  | 0x2 => some (.call (nnnOf w))
  | 0x3 => some (.seImm (xOf w) (nnOf w))
  | 0x4 => some (.sneImm (xOf w) (nnOf w))
  | 0x5 => if nOf w = 0 then some (.seReg (xOf w) (yOf w)) else none
  | 0x6 => some (.ldImm (xOf w) (nnOf w))
  | 0x7 => some (.addImm (xOf w) (nnOf w))
  | 0x8 => decodeFamily8 (xOf w) (yOf w) (nOf w).val
  | 0x9 => if nOf w = 0 then some (.sneReg (xOf w) (yOf w)) else none
  | 0xA => some (.ldI (nnnOf w))
  | 0xB => some (.jpV0 (nnnOf w))
  | 0xC => some (.rnd (xOf w) (nnOf w))
  | 0xD => some (.drw (xOf w) (yOf w) (nOf w))
  | 0xE => decodeFamilyE (xOf w) (nnOf w).toNat
  | 0xF => decodeFamilyF (xOf w) (nnOf w).toNat
  | _ => none

/-- Why bytes do not decode. -/
inductive DecodeError where
  /-- Fewer than the two bytes an instruction has (R60). -/
  | truncated (have_ : Nat)
  /-- The word selects no row: `UnknownInstruction(w)` (R66, R181). -/
  | unknownInstruction (w : Word)
  deriving DecidableEq, Repr

/-- The byte at the lower address is the high byte of the word (R44, R60). -/
def wordOfBytes (high low : Byte) : Word := high ++ low

/-- The bytes of a word as memory holds them (R44). -/
def bytesOfWord (w : Word) : List Byte := [w.extractLsb' 8 8, w.extractLsb' 0 8]

/-- Decode the first instruction of a byte sequence: the instruction and the bytes after it, or a named rejection. -/
def decodeBytes : List Byte → Except DecodeError (Instr × List Byte)
  | high :: low :: rest =>
    match decodeWord (wordOfBytes high low) with
    | some i => .ok (i, rest)
    | none => .error (.unknownInstruction (wordOfBytes high low))
  | bytes => .error (.truncated bytes.length)

/-! ### Encode (R62, R65) -/

/-- Format `A`. -/
def formatA (op : BitVec 4) (nnn : Addr12) : Word := op ++ nnn
/-- Format `XK`, and `XS` with the sub-opcode as its byte. -/
def formatXK (op : BitVec 4) (x : Reg) (nn : Byte) : Word := op ++ (BitVec.ofFin x : BitVec 4) ++ nn
/-- Format `XYN`, and `XYS` with the sub-opcode as its nibble. -/
def formatXYN (op : BitVec 4) (x y : Reg) (n : Fin 16) : Word :=
  op ++ (BitVec.ofFin x : BitVec 4) ++ (BitVec.ofFin y : BitVec 4) ++ (BitVec.ofFin n : BitVec 4)

/-- The word of an instruction, from the formats of R62 and the fixed bits of R65. -/
def encode : Instr → Word
  | .cls => 0x00E0
  | .ret => 0x00EE
  | .jp nnn => formatA 0x1 nnn
  | .call nnn => formatA 0x2 nnn
  | .seImm x nn => formatXK 0x3 x nn
  | .sneImm x nn => formatXK 0x4 x nn
  | .seReg x y => formatXYN 0x5 x y 0x0
  | .sneReg x y => formatXYN 0x9 x y 0x0
  | .ldImm x nn => formatXK 0x6 x nn
  | .addImm x nn => formatXK 0x7 x nn
  | .ldReg x y => formatXYN 0x8 x y 0x0
  | .or x y => formatXYN 0x8 x y 0x1
  | .and x y => formatXYN 0x8 x y 0x2
  | .xor x y => formatXYN 0x8 x y 0x3
  | .addReg x y => formatXYN 0x8 x y 0x4
  | .sub x y => formatXYN 0x8 x y 0x5
  | .shr x y => formatXYN 0x8 x y 0x6
  | .subn x y => formatXYN 0x8 x y 0x7
  | .shl x y => formatXYN 0x8 x y 0xE
  | .ldI nnn => formatA 0xA nnn
  | .jpV0 nnn => formatA 0xB nnn
  | .rnd x nn => formatXK 0xC x nn
  | .drw x y n => formatXYN 0xD x y n
  | .skp x => formatXK 0xE x 0x9E
  | .sknp x => formatXK 0xE x 0xA1
  | .ldVxDt x => formatXK 0xF x 0x07
  | .ldVxK x => formatXK 0xF x 0x0A
  | .ldDtVx x => formatXK 0xF x 0x15
  | .ldStVx x => formatXK 0xF x 0x18
  | .addI x => formatXK 0xF x 0x1E
  | .ldF x => formatXK 0xF x 0x29
  | .ldB x => formatXK 0xF x 0x33
  | .ldMemV x => formatXK 0xF x 0x55
  | .ldVMem x => formatXK 0xF x 0x65

/-- The bytes of an instruction as memory holds them (R44). -/
def encodeBytes (i : Instr) : List Byte := bytesOfWord (encode i)

/-! ### The opcode table's numbering of a word -/

/-- The bytes of the instruction whose bits, numbered as the opcode table numbers them, are the low `nbits` of `w`. -/
def tableBytes (nbits w : Nat) : List Byte := bytesOfWord (BitVec.ofNat 16 (w % 2 ^ nbits))

/-- What the decoder reads from such an instruction. -/
def decodeTableWord (nbits w : Nat) : Option Instr :=
  match decodeBytes (tableBytes nbits w) with
  | .ok (i, _) => some i
  | .error _ => none

end Sys2Proof
end

