-- ==== Sys2Proof/Config.lean ====
section
/-! DEFINITION. Constants of the hardware (spec/00_scope.md R4; the sizes of the stores stand as numbers in the types of
State, 4096 cells in `ea`) and the one uninterpreted supply of free values
(the random bytes of R5, R132). The other open parameter of R5, `GLYPH_TABLE`, is data in State (log 1). -/

namespace Sys2Proof.Config

/-- `PROG_BASE`: where `LOAD` puts a program (R4); `PC` after `RESET` is the same number. -/
abbrev progBase : Nat := 0x200

/-- `MAX_PROG`: the largest program image, 4096 - 0x200 bytes (R4, R184). -/
abbrev maxProg : Nat := 3584

/-- `GLYPH_BASE`: memory offset of the glyph table (R4). -/
abbrev glyphBase : Nat := 0

/-- `GLYPH_STRIDE`: bytes per glyph (R4). -/
abbrev glyphStride : Nat := 5

/-- The `k`-th free random byte: R132 lets `rnd` be any value, bound by no law, so it has no body and no proof can
know a value of it. DESIGN CHOICE (log 2), safe. -/
opaque rndDraw : Nat → Byte

end Sys2Proof.Config
end

