-- ==== Sys2Proof/Machine/Glyphs.lean ====
section
/-! DEFINITION. The value of the open parameter `GLYPH_TABLE` (spec/00_scope.md R5) that `State.reset` is given. -/

namespace Sys2Proof.Machine

/-- 80 bytes, digit `d` at offset `5*d` (R4, R48). -/
abbrev GlyphTable := Vector Byte 80

/-- The conventional table the spec offers as the parameter's default (spec/93_implementation_defined.md G1), general
knowledge and not the source's. PRESUMED (log 1), unsafe: a proof about these bytes holds of this table only. -/
def defaultGlyphs : GlyphTable :=
  ⟨#[0xF0, 0x90, 0x90, 0x90, 0xF0, 0x20, 0x60, 0x20, 0x20, 0x70] ++
   #[0xF0, 0x10, 0xF0, 0x80, 0xF0, 0xF0, 0x10, 0xF0, 0x10, 0xF0] ++
   #[0x90, 0x90, 0xF0, 0x10, 0x10, 0xF0, 0x80, 0xF0, 0x10, 0xF0] ++
   #[0xF0, 0x80, 0xF0, 0x90, 0xF0, 0xF0, 0x10, 0x20, 0x40, 0x40] ++
   #[0xF0, 0x90, 0xF0, 0x90, 0xF0, 0xF0, 0x90, 0xF0, 0x10, 0xF0] ++
   #[0xF0, 0x90, 0xF0, 0x90, 0x90, 0xE0, 0x90, 0xE0, 0x90, 0xE0] ++
   #[0xF0, 0x80, 0x80, 0x80, 0xF0, 0xE0, 0x90, 0x90, 0x90, 0xE0] ++
   #[0xF0, 0x80, 0xF0, 0x80, 0xF0, 0xF0, 0x80, 0xF0, 0x80, 0x80], rfl⟩

end Sys2Proof.Machine
end

