-- ==== Sys2Proof/Machine/State.lean ====
section
/-! DEFINITION. The state of the block: every element of spec/10_state.md R10, the reasons an operation stops
(spec/60_exceptions.md R180), and the state right after RESET (R27). -/

namespace Sys2Proof.Machine

/-- The 4096 memory cells (R40). `cells` lists, at rising addresses, the cells that differ from what they hold after
RESET; `glyphs` is the parameter `GLYPH_TABLE`, which cells 0..79 hold after RESET (R5, R27; log 1, log 8). -/
structure Memory where
  glyphs : GlyphTable
  cells : List Host.Cell
  deriving DecidableEq, Repr

/-- The display: 32 rows of 64 bits (R10, R18). Column 0 of a row is its most significant bit (log 7); read it with
`State.pixel`. -/
abbrev Display := Vector (BitVec 64) 32

/-- The elements of R10, and last the model's own two fields for the input byte `rnd` (R5, R23; log 2). -/
structure State where
  /-- `memory` (R22, R40) -/
  mem : Memory
  /-- general registers `V[0x0]`..`V[0xF]`; `V[0xF]` is the flag register (R11, R12) -/
  V : Vector Byte 16
  /-- index register (R14) -/
  I : Word
  /-- program counter (R13) -/
  PC : Word
  /-- return-address slots (R15) -/
  stack : Vector Word 16
  /-- how many slots are in use, 0..16 (R15) -/
  SP : Fin 17
  /-- delay timer (R16) -/
  DT : Byte
  /-- sound timer (R16) -/
  ST : Byte
  /-- key states; true is down (R17) -/
  keys : Vector Bool 16
  /-- the bitmap (R18) -/
  display : Display
  /-- display-dirty notification (R19) -/
  drawFlag : Bool
  /-- sound-dirty notification (R20) -/
  soundFlag : Bool
  /-- awaiting input (R21) -/
  waiting : Bool
  /-- the register of the pending write, meaningful while `waiting` (R21) -/
  waitReg : Reg
  /-- the model's own: the input byte of the next STEP, a free value (R5, R132; log 2) -/
  rnd : Byte
  /-- the model's own: how many free bytes were drawn (log 2) -/
  draws : Nat
  deriving DecidableEq, Repr

/-- The errors of R180. An error is the result of the operation that met it and changes no state element (R186, R187),
so the state after it is the state before it (log 4). -/
inductive Fault where
  /-- Raised by `step` on an illegal word, which it carries (R181). Safe: the spec's own error. -/
  | unknownInstruction (w : Word)
  /-- Raised by `CALL` when `SP = 16`, with the fetched word (R182). Safe: the spec's own error. -/
  | stackOverflow (w : Word)
  /-- Raised by `RET` when `SP = 0`, with the fetched word (R183). Safe: the spec's own error. -/
  | stackUnderflow (w : Word)
  /-- Raised by `LOAD` of more than 3584 bytes (R184). Safe: the spec's own error. -/
  | programTooLarge
  deriving DecidableEq, Repr

/-- Why the model gives no meaning. -/
inductive Refusal where
  /-- Raised by `exec` for an instruction without a meaning; no instruction of this model is one. Safe. -/
  | notModelled (mnemonic : String)
  deriving DecidableEq, Repr

/-- What an operation answers. -/
abbrev Answer := Host.Outcome State Fault Refusal

/-- The state right after RESET (R27, R210) of the machine whose parameter `GLYPH_TABLE` is `glyphs`. The reset values
of the model's own `rnd` and `draws` are log 3. -/
def State.resetWith (glyphs : GlyphTable) : State where
  mem := ⟨glyphs, []⟩
  V := Vector.replicate 16 0
  I := 0
  PC := 0x0200
  stack := Vector.replicate 16 0
  SP := 0
  DT := 0
  ST := 0
  keys := Vector.replicate 16 false
  display := Vector.replicate 32 0
  drawFlag := false
  soundFlag := false
  waiting := false
  waitReg := 0
  rnd := Config.rndDraw 0
  draws := 1

/-- The state right after RESET, with the spec's default for `GLYPH_TABLE` (log 1). -/
def State.reset : State := State.resetWith defaultGlyphs

end Sys2Proof.Machine
end

