-- ==== Sys2Proof/Machine/Ops.lean ====
section
/-! DEFINITION. The named operations every meaning is written over: memory (spec/20_memory.md), registers, the program
counter (spec/30_encoding.md R71), the return stack (spec/10_state.md R15), and raising an error
(spec/60_exceptions.md R186, R187). -/

namespace Sys2Proof.Machine

/-! ### Memory (R40, R42, R43) -/

/-- `EA(a) = a mod 4096` (R42). -/
def ea (a : Word) : Nat := a.toNat % 4096

/-- What cell `a` holds after RESET, and so what an unlisted cell reads as: the glyph table in cells 0..79, zero above
(R27, R48). -/
def resetByte (g : GlyphTable) (a : Nat) : Byte := if h : a < 80 then g[a] else 0

/-- Read a cell in a list of cells at rising addresses. -/
def readCells (g : GlyphTable) (a : Nat) : List Host.Cell → Byte
  | [] => resetByte g a
  | (a', b) :: rest => if a' = a then b else readCells g a rest

/-- Put a cell in front, unless it holds what an unlisted cell reads as. -/
def consCell (g : GlyphTable) (a : Nat) (b : Byte) (rest : List Host.Cell) : List Host.Cell :=
  if b = resetByte g a then rest else (a, b) :: rest

/-- Put a cell before the first one at a higher address. -/
def insertCell (g : GlyphTable) (a : Nat) (b : Byte) : List Host.Cell → List Host.Cell
  | [] => consCell g a b []
  | (a', b') :: rest =>
    if a < a' then consCell g a b ((a', b') :: rest) else (a', b') :: insertCell g a b rest

/-- Write a cell: what was listed for it goes, and the new byte is listed in its place unless it is what an unlisted
cell reads as. Addresses stay rising. -/
def writeCells (g : GlyphTable) (a : Nat) (b : Byte) (cells : List Host.Cell) : List Host.Cell :=
  insertCell g a b (cells.filter fun c => c.1 != a)

/-- The canonical form from address `lo` on: rising addresses below 4096, no entry equal to what an unlisted cell reads
as. -/
def wfCells (g : GlyphTable) : Nat → List Host.Cell → Bool
  | _, [] => true
  | lo, (a, b) :: rest =>
    decide (lo ≤ a) && decide (a < 4096) && decide (b ≠ resetByte g a) && wfCells g (a + 1) rest

/-- The byte in cell `a`. -/
def Memory.read (m : Memory) (a : Nat) : Byte := readCells m.glyphs a m.cells

/-- The memory with `b` in cell `a`. -/
def Memory.write (m : Memory) (a : Nat) (b : Byte) : Memory := { m with cells := writeCells m.glyphs a b m.cells }

/-- The memory is in canonical form: equal contents are equal data. -/
def Memory.wf (m : Memory) : Bool := wfCells m.glyphs 0 m.cells

/-- `MemRead(a, 1)` (R43). -/
def State.readMem (s : State) (a : Word) : Byte := s.mem.read (ea a)

/-- `MemRead(a, 2)`: the byte at the lower address is the high byte (R43, R44). -/
def State.readWord (s : State) (a : Word) : Word := wordOfBytes (s.readMem a) (s.readMem (a + 1))

/-- `memory` replaced. -/
def State.setMem (s : State) (m : Memory) : State := { s with mem := m }

/-- `MemWrite(a, 1, b)` (R43). -/
def State.writeMem (s : State) (a : Word) (b : Byte) : State := s.setMem (s.mem.write (ea a) b)

/-- Byte accesses at ascending offsets from `a` (R47, R54). -/
def State.storeBytes (s : State) (a : Word) : List Byte → State
  | [] => s
  | b :: rest => (s.writeMem a b).storeBytes (a + 1) rest

/-- Instruction fetch: `MemRead(PC, 2)`, which changes nothing (R45). -/
def State.fetchWord (s : State) : Word := s.readWord s.PC

/-! ### Registers, flags of the block, timers -/

/-- `V[r]` (R7). -/
def State.reg (s : State) (r : Reg) : Byte := s.V[r]

/-- `V[r] <- v` (R7). -/
def State.setReg (s : State) (r : Reg) (v : Byte) : State := { s with V := s.V.set r v }

/-- The whole register file replaced. -/
def State.setV (s : State) (v : Vector Byte 16) : State := { s with V := v }

/-- `I <- v` (R14). -/
def State.setI (s : State) (v : Word) : State := { s with I := v }

/-- `PC <- v` (R13). -/
def State.setPC (s : State) (v : Word) : State := { s with PC := v }

/-- `DT <- v` (R16). -/
def State.setDT (s : State) (v : Byte) : State := { s with DT := v }

/-- `ST <- v` (R16). -/
def State.setST (s : State) (v : Byte) : State := { s with ST := v }

/-- `keys[k] <- v` (R17). -/
def State.setKey (s : State) (k : Key) (v : Bool) : State := { s with keys := s.keys.set k v }

/-- The bitmap replaced (R18). -/
def State.setDisplay (s : State) (d : Display) : State := { s with display := d }

/-- `drawFlag <- v` (R19). -/
def State.setDrawFlag (s : State) (v : Bool) : State := { s with drawFlag := v }

/-- `soundFlag <- v` (R20). -/
def State.setSoundFlag (s : State) (v : Bool) : State := { s with soundFlag := v }

/-- `waiting <- v; waitReg <- r` (R21). -/
def State.setWait (s : State) (v : Bool) (r : Reg) : State := { s with waiting := v, waitReg := r }

/-- The return stack and its depth replaced (R15). -/
def State.setStack (s : State) (st : Vector Word 16) (sp : Fin 17) : State :=
  { s with stack := st, SP := sp }

/-- The free byte just used is replaced by a fresh one (R132; log 2). -/
def State.freshRnd (s : State) : State := { s with rnd := Config.rndDraw s.draws, draws := s.draws + 1 }

/-- The input byte of the next STEP set to `r`: the argument of `STEP(rnd)` (R24; log 2). -/
def State.withRnd (s : State) (r : Byte) : State := { s with rnd := r }

/-! ### Program counter (R7, R71) -/

/-- `NEXT = (PC + 2) mod 65536`. -/
def State.next (s : State) : Word := s.PC + 2

/-- `SKIP = (PC + 4) mod 65536`. -/
def State.skip (s : State) : Word := s.PC + 4

/-- `PC <- NEXT`. -/
def State.advance (s : State) : State := s.setPC s.next

/-- `if c then PC <- SKIP else PC <- NEXT`. -/
def State.skipIf (s : State) (c : Bool) : State := s.setPC (if c then s.skip else s.next)

/-! ### Return stack (R15, R81, R83) -/

/-- Write the slot, then increment the depth; `none` when all 16 are in use. -/
def State.push (s : State) (v : Word) : Option State :=
  if h : s.SP.val < 16 then
    some (s.setStack (s.stack.set s.SP.val v) ⟨s.SP.val + 1, by omega⟩)
  else none

/-- Decrement the depth, then read the slot, which keeps its value; `none` when none is in use. -/
def State.pop (s : State) : Option (Word × State) :=
  if h : s.SP.val = 0 then none
  else some (s.stack[s.SP.val - 1]'(by have := s.SP.isLt; omega), s.setStack s.stack ⟨s.SP.val - 1, by omega⟩)

/-! ### Errors (R186, R187) -/

/-- `raise E`: what stands in for taking an exception on this hardware. The operation ends with the error as its result;
no register saves anything, no handler is entered and no state element changes, so no next state is answered
(R186, R187; log 4). There is no return from an error: the host decides what to do next (R189). -/
def raise (e : Fault) : Answer := .fault e

/-! ### Reading the display (R18, R25) -/

/-- `display[r][c]`. -/
def State.pixel (s : State) (r : Fin 32) (c : Fin 64) : Bool := s.display[r].getMsbD c.val

/-- Element `k` of the bitmap as a flat row-major sequence of 2048 bits: pixel `(r, c)` is element `r * 64 + c` (R18). -/
def State.flatPixel (s : State) (k : Fin 2048) : Bool :=
  s.pixel ⟨k.val / 64, by omega⟩ ⟨k.val % 64, by omega⟩

end Sys2Proof.Machine
end

