-- ==== Sys2Proof/Machine/Operands.lean ====
section
/-! DEFINITION. The operand forms of the instructions beyond a plain register or immediate: a key index, a glyph
address, decimal digits, blocks of registers, and screen coordinates. -/

namespace Sys2Proof.Machine

/-- The register that carries the flag, `VF` (R12). -/
abbrev VF : Reg := 0xF

/-- The key a register names: its low nibble (R150, R151, D14). -/
def keyOf (v : Byte) : Key := ⟨v.toNat % 16, by omega⟩

/-- The byte a key index is stored as, `0x00`..`0x0F` (R161, R193). -/
def byteOfKey (k : Key) : Byte := BitVec.ofNat 8 k.val

/-- The memory offset of the glyph of a register's low nibble: `GLYPH_BASE + 5 * (V[x] mod 16)` (R165, D15). -/
def glyphAddr (v : Byte) : Word := BitVec.ofNat 16 (Config.glyphBase + Config.glyphStride * (v.toNat % 16))

/-- Hundreds, tens and ones of a register (R166). -/
def decimalDigits (v : Byte) : List Byte :=
  [BitVec.ofNat 8 (v.toNat / 100), BitVec.ofNat 8 (v.toNat / 10 % 10), BitVec.ofNat 8 (v.toNat % 10)]

/-- `V[0]`..`V[x]`, in order (R167). -/
def State.regsUpTo (s : State) (x : Reg) : List Byte := s.V.toList.take (x.val + 1)

/-- The register file with `V[0]`..`V[x]` read from the bytes at `I` (R168). -/
def State.loadedRegs (s : State) (x : Reg) : Vector Byte 16 :=
  Vector.ofFn fun k => if k ≤ x then s.readMem (s.I + BitVec.ofNat 16 k.val) else s.reg k

/-- The column a draw starts at, `V[x] mod 64` (R140). -/
def startColumn (v : Byte) : Nat := v.toNat % 64

/-- The row a draw starts at, `V[y] mod 32` (R140). -/
def startRow (v : Byte) : Nat := v.toNat % 32

end Sys2Proof.Machine
end

