-- ==== Sys2Proof/Machine/Flags.lean ====
section
/-! DEFINITION. Every flag computation of the spec (spec/43_alu.md R119, spec/10_state.md R12): each from the operands as
read, never from the result, and written to `VF` last as a whole byte 0x00 or 0x01. -/

namespace Sys2Proof.Machine

/-- The byte a flag is written as (R119 (e)). -/
def flagByte (c : Bool) : Byte := if c then 1 else 0

/-- `ADD_REG`: the unsigned 8-bit sum overflows (R114). -/
def carry (a b : Byte) : Bool := decide (a.toNat + b.toNat > 255)

/-- `SUB`, `SUBN`: no borrow in `a - b` (R115, R117). -/
def noBorrow (a b : Byte) : Bool := decide (b.toNat ≤ a.toNat)

/-- `SHR`: bit 0 before the shift (R116). -/
def lowBit (a : Byte) : Bool := a.getLsbD 0

/-- `SHL`: bit 7 before the shift (R118). -/
def highBit (a : Byte) : Bool := a.getLsbD 7

/-- `VF <- c`. -/
def State.setFlag (s : State) (c : Bool) : State := s.setReg VF (flagByte c)

/-- The 8-bit result to `V[x]` first, the flag to `VF` second: with `x = 0xF` the flag remains (R119 (b), D5). -/
def State.writeResult (s : State) (x : Reg) (v : Byte) (c : Bool) : State := (s.setReg x v).setFlag c

end Sys2Proof.Machine
end

