-- ==== Sys2Proof/Machine/Alu.lean ====
section
/-! DEFINITION. The register-register ALU family 8xyN (spec/43_alu.md) and the random byte
(spec/44_index_jump_random.md R132). -/

namespace Sys2Proof.Machine

/-- `LD_REG` (R110). -/
def execLdReg (x y : Reg) (s : State) : Answer := .next (s.setReg x (s.reg y)).advance

/-- `OR`: no flag (R111). -/
def execOr (x y : Reg) (s : State) : Answer := .next (s.setReg x (s.reg x ||| s.reg y)).advance

/-- `AND`: no flag (R112). -/
def execAnd (x y : Reg) (s : State) : Answer := .next (s.setReg x (s.reg x &&& s.reg y)).advance

/-- `XOR`: no flag (R113). -/
def execXor (x y : Reg) (s : State) : Answer := .next (s.setReg x (s.reg x ^^^ s.reg y)).advance

/-- `ADD_REG` (R114). -/
def execAddReg (x y : Reg) (s : State) : Answer :=
  .next (s.writeResult x (s.reg x + s.reg y) (carry (s.reg x) (s.reg y))).advance

/-- `SUB`: `V[x] - V[y]` (R115). -/
def execSub (x y : Reg) (s : State) : Answer :=
  .next (s.writeResult x (s.reg x - s.reg y) (noBorrow (s.reg x) (s.reg y))).advance

/-- `SHR`: shifts `V[x]` in place; `y` takes no part (R116, R67, D6). -/
def execShr (x : Reg) (s : State) : Answer := .next (s.writeResult x (s.reg x >>> 1) (lowBit (s.reg x))).advance

/-- `SUBN`: `V[y] - V[x]` into `V[x]` (R117). -/
def execSubn (x y : Reg) (s : State) : Answer :=
  .next (s.writeResult x (s.reg y - s.reg x) (noBorrow (s.reg y) (s.reg x))).advance

/-- `SHL`: shifts `V[x]` in place; `y` takes no part (R118, R67, D6). -/
def execShl (x : Reg) (s : State) : Answer := .next (s.writeResult x (s.reg x <<< 1) (highBit (s.reg x))).advance

/-- `RND`: the input byte under a mask; the byte is then replaced by a fresh one (R132; log 2). -/
def execRnd (x : Reg) (nn : Byte) (s : State) : Answer := .next (s.setReg x (s.rnd &&& nn)).freshRnd.advance

end Sys2Proof.Machine
end

