-- ==== Sys2Proof/Machine/Draw.lean ====
section
/-! DEFINITION. Draw sprite with collision detection, Dxyn (spec/45_draw.md R140), a row of 64 pixels at a time.
`Obligations.DrawIsThePixelLoop` states that it is the pixel loop of R140. -/

namespace Sys2Proof.Machine

/-- A sprite byte in a display row: its bit 7 at column `x0`, pixels past column 63 clipped (R140, D9). -/
def placeByte (x0 : Nat) (b : Byte) : BitVec 64 := (b ++ (0 : BitVec 56)) >>> x0

/-- The pixels of display row `r` that lie under a 1 bit of the `n`-row sprite at `I` whose upper left pixel is at
column `x0`, row `y0`; rows past 31 are clipped (R140, R141). -/
def State.spriteRow (s : State) (x0 y0 n : Nat) (r : Fin 32) : BitVec 64 :=
  if y0 ≤ r.val ∧ r.val < y0 + n then placeByte x0 (s.readMem (s.I + BitVec.ofNat 16 (r.val - y0))) else 0

/-- The cells a draw inverts, the set `S` of R142. -/
def State.spriteMask (s : State) (x0 y0 n : Nat) : Display := Vector.ofFn fun r => s.spriteRow x0 y0 n r

/-- The exclusive-OR of two bitmaps. -/
def xorDisplay (d m : Display) : Display := Vector.ofFn fun r => d[r] ^^^ m[r]

/-- Some pixel that is set lies under the mask: the exclusive-OR clears it (R140). -/
def collides (d m : Display) : Bool := decide (∃ r : Fin 32, d[r] &&& m[r] ≠ 0)

/-- The display inverted under `m`, `VF` the collision, `drawFlag` set (R140). -/
def State.drawMask (s : State) (m : Display) : State :=
  ((s.setDisplay (xorDisplay s.display m)).setFlag (collides s.display m)).setDrawFlag true

/-- `DRW`: coordinates are read before `VF` is written (R140, R119 (a)). -/
def execDrw (x y : Reg) (n : Fin 16) (s : State) : Answer :=
  .next (s.drawMask (s.spriteMask (startColumn (s.reg x)) (startRow (s.reg y)) n.val)).advance

end Sys2Proof.Machine
end

