-- ==== Sys2Proof/Machine/Flow.lean ====
section
/-! DEFINITION. Family 0, jump and call (spec/40_family0_jump_call.md), and the jump with offset
(spec/44_index_jump_random.md R131). -/

namespace Sys2Proof.Machine

/-- `CLS`: every pixel to 0, `drawFlag` set (R80, D11). -/
def execCls (s : State) : Answer := .next ((s.setDisplay (Vector.replicate 32 0)).setDrawFlag true).advance

/-- `RET`: pop into `PC`, which is not advanced further (R81); empty stack: `StackUnderflow` (R183). -/
def execRet (s : State) : Answer :=
  match s.pop with
  | some (target, t) => .next (t.setPC target)
  | none => raise (.stackUnderflow (encode .ret))

/-- `JP` (R82). -/
def execJp (nnn : Addr12) (s : State) : Answer := .next (s.setPC (zext16 nnn))

/-- `CALL`: push `NEXT`, the address after the call (R83, C1); full stack: `StackOverflow` (R182). -/
def execCall (nnn : Addr12) (s : State) : Answer :=
  match s.push s.next with
  | some t => .next (t.setPC (zext16 nnn))
  | none => raise (.stackOverflow (encode (.call nnn)))

/-- `JP_V0`: the sum is stored unreduced in the 16-bit `PC` (R131). -/
def execJpV0 (nnn : Addr12) (s : State) : Answer := .next (s.setPC (zext16 nnn + zext16 (s.reg 0x0)))

end Sys2Proof.Machine
end

