-- ==== Sys2Proof/Machine/Immediate.lean ====
section
/-! DEFINITION. Load and add immediate (spec/42_immediate.md), load index (spec/44_index_jump_random.md R130). -/

namespace Sys2Proof.Machine

/-- `LD_IMM` (R100). -/
def execLdImm (x : Reg) (nn : Byte) (s : State) : Answer := .next (s.setReg x nn).advance

/-- `ADD_IMM`: wraps at 8 bits, writes no flag (R101). -/
def execAddImm (x : Reg) (nn : Byte) (s : State) : Answer := .next (s.setReg x (s.reg x + nn)).advance

/-- `LD_I` (R130). -/
def execLdI (nnn : Addr12) (s : State) : Answer := .next (s.setI (zext16 nnn)).advance

end Sys2Proof.Machine
end

