-- ==== Sys2Proof/Machine/Misc.lean ====
section
/-! DEFINITION. Family F (spec/47_misc_timers_memory.md): timers, key wait, index arithmetic, glyph address, decimal
digits, block store and load. None writes `VF` as a flag, none of the last three changes `I` (D16, D17). -/

namespace Sys2Proof.Machine

/-- `LD_VX_DT` (R160). -/
def execLdVxDt (x : Reg) (s : State) : Answer := .next (s.setReg x s.DT).advance

/-- `LD_VX_K`: enter the awaiting-input state; `PC` stays until `KEY_DOWN` completes the write (R161, D13). -/
def execLdVxK (x : Reg) (s : State) : Answer := .next (s.setWait true x)

/-- `LD_DT_VX` (R162). -/
def execLdDtVx (x : Reg) (s : State) : Answer := .next (s.setDT (s.reg x)).advance

/-- `LD_ST_VX`: `soundFlag` is not written (R163). -/
def execLdStVx (x : Reg) (s : State) : Answer := .next (s.setST (s.reg x)).advance

/-- `ADD_I`: modulo 65536, no flag (R164). -/
def execAddI (x : Reg) (s : State) : Answer := .next (s.setI (s.I + zext16 (s.reg x))).advance

/-- `LD_F` (R165). -/
def execLdF (x : Reg) (s : State) : Answer := .next (s.setI (glyphAddr (s.reg x))).advance

/-- `LD_B` (R166). -/
def execLdB (x : Reg) (s : State) : Answer := .next (s.storeBytes s.I (decimalDigits (s.reg x))).advance

/-- `LD_MEM_V` (R167). -/
def execLdMemV (x : Reg) (s : State) : Answer := .next (s.storeBytes s.I (s.regsUpTo x)).advance

/-- `LD_V_MEM` (R168). -/
def execLdVMem (x : Reg) (s : State) : Answer := .next (s.setV (s.loadedRegs x)).advance

end Sys2Proof.Machine
end

