-- ==== Sys2Proof/Machine/Skip.lean ====
section
/-! DEFINITION. Conditional skips on register compare (spec/41_skip_compare.md) and on key state
(spec/46_key_skip.md). Each writes `PC` only. -/

namespace Sys2Proof.Machine

/-- `SE_IMM` (R90). -/
def execSeImm (x : Reg) (nn : Byte) (s : State) : Answer := .next (s.skipIf (s.reg x == nn))

/-- `SNE_IMM` (R91). -/
def execSneImm (x : Reg) (nn : Byte) (s : State) : Answer := .next (s.skipIf (s.reg x != nn))

/-- `SE_REG` (R92). -/
def execSeReg (x y : Reg) (s : State) : Answer := .next (s.skipIf (s.reg x == s.reg y))

/-- `SNE_REG` (R93). -/
def execSneReg (x y : Reg) (s : State) : Answer := .next (s.skipIf (s.reg x != s.reg y))

/-- `SKP`: skip if the key is down (R150). -/
def execSkp (x : Reg) (s : State) : Answer := .next (s.skipIf s.keys[keyOf (s.reg x)])

/-- `SKNP`: skip if the key is up (R151). -/
def execSknp (x : Reg) (s : State) : Answer := .next (s.skipIf (!s.keys[keyOf (s.reg x)]))

end Sys2Proof.Machine
end

