-- ==== Sys2Proof/Machine/Step.lean ====
section
/-! DEFINITION. The step cycle of spec/30_encoding.md R70. -/

namespace Sys2Proof.Machine

/-- `STEP`: while awaiting input, nothing; else fetch, decode, and run the instruction or raise `UnknownInstruction`
(R70). The input byte `rnd` of this STEP is `s.rnd` (log 2); the reported result is `report` (R180; log 6). -/
def step (s : State) : Host.Outcome State Fault Refusal :=
  if s.waiting then .next s
  else
    match decodeWord s.fetchWord with
    | some i => exec i s
    | none => raise (.unknownInstruction s.fetchWord)

/-- `s` with the instruction whose bits are `w` stored where the next fetch reads, and not awaiting input, since a STEP
that awaits input fetches nothing (R45, R70; log 11). -/
def State.withFetchWord (s : State) (nbits w : Nat) : State :=
  (s.storeBytes s.PC (tableBytes nbits w)).setWait false s.waitReg

end Sys2Proof.Machine
end

