-- ==== Sys2Proof/Machine/HostOps.lean ====
section
/-! DEFINITION. The eight operations through which the host reaches the block (spec/10_state.md R24), their reported
results (spec/60_exceptions.md R180), and runs of operations in any order (R191; log 5). -/

namespace Sys2Proof.Machine

/-- `RESET` (R210). The parameter `GLYPH_TABLE` and the supply of free bytes are not state of the block and stay
(R5, R23; log 3). -/
def State.hostReset (s : State) : State :=
  { State.resetWith s.mem.glyphs with rnd := s.rnd, draws := s.draws }

/-- `LOAD(bytes)`: the bytes to cells 0x200 and up, or `ProgramTooLarge` (R212, R184). -/
def State.load (s : State) (bytes : List Byte) : Answer :=
  if bytes.length > Config.maxProg then raise .programTooLarge
  else .next (s.storeBytes (BitVec.ofNat 16 Config.progBase) bytes)

/-- `STEP(rnd)` (R24, R70). -/
def stepWith (r : Byte) (s : State) : Answer := step (s.withRnd r)

/-- A timer counts down one, stopping at 0 (R192). -/
def countDown (t : Byte) : Byte := if t.toNat > 0 then t - 1 else t

/-- `TICK`: both timers count down; `soundFlag` is set on the 1-to-0 transition of `ST` (R192). -/
def State.tick (s : State) : State :=
  ((s.setDT (countDown s.DT)).setST (countDown s.ST)).setSoundFlag (s.soundFlag || s.ST == 1)

/-- `KEY_DOWN(k)`: the key is down, and a pending `LD_VX_K` completes (R193). -/
def State.keyDown (s : State) (k : Key) : State :=
  if s.waiting then (((s.setKey k true).setReg s.waitReg (byteOfKey k)).advance).setWait false s.waitReg
  else s.setKey k true

/-- `KEY_UP(k)` (R194). -/
def State.keyUp (s : State) (k : Key) : State := s.setKey k false

/-- `ACK_DRAW` (R195). -/
def State.ackDraw (s : State) : State := s.setDrawFlag false

/-- `ACK_SOUND` (R196). -/
def State.ackSound (s : State) : State := s.setSoundFlag false

/-- The operations of R24 with their arguments. -/
inductive Operation where
  | reset
  | load (bytes : List Byte)
  | step (rnd : Byte)
  | tick
  | keyDown (k : Key)
  | keyUp (k : Key)
  | ackDraw
  | ackSound
  deriving DecidableEq, Repr

/-- One operation (R24). Only `LOAD` and `STEP` can fail (R180). -/
def perform (op : Operation) (s : State) : Answer :=
  match op with
  | .reset => .next s.hostReset
  | .load bytes => s.load bytes
  | .step r => stepWith r s
  | .tick => .next s.tick
  | .keyDown k => .next (s.keyDown k)
  | .keyUp k => .next (s.keyUp k)
  | .ackDraw => .next s.ackDraw
  | .ackSound => .next s.ackSound

/-- The state after an operation: an operation that raises an error changes nothing (R186). -/
def after (op : Operation) (s : State) : State :=
  match perform op s with
  | .next t => t
  | _ => s

/-- A run: operations one after another, in the order the host invokes them (R24, R50). -/
def runOps : List Operation → State → State
  | [], s => s
  | op :: rest, s => runOps rest (after op s)

/-- The results of R180. -/
inductive Report where
  | ok
  | awaitingInput
  | unknownInstruction (w : Word)
  | stackOverflow (w : Word)
  | stackUnderflow (w : Word)
  | programTooLarge
  deriving DecidableEq, Repr

/-- The numeric result codes of R180 (D18). -/
def Report.code : Report → Nat
  | .ok => 0
  | .awaitingInput => 1
  | .unknownInstruction _ => 2
  | .stackOverflow _ => 3
  | .stackUnderflow _ => 4
  | .programTooLarge => 5

/-- The report of an error. -/
def Report.ofFault : Fault → Report
  | .unknownInstruction w => .unknownInstruction w
  | .stackOverflow w => .stackOverflow w
  | .stackUnderflow w => .stackUnderflow w
  | .programTooLarge => .programTooLarge

/-- What an operation reports: an error, or `AwaitingInput` when a STEP leaves the block awaiting input, else `Ok`
(R70, R180; log 6). `none` for the operations without a result, and for a refusal, which this model never answers. -/
def report (op : Operation) (s : State) : Option Report :=
  match op, perform op s with
  | .step _, .next t => some (if t.waiting then .awaitingInput else .ok)
  | .step _, .fault e => some (Report.ofFault e)
  | .load _, .next _ => some .ok
  | .load _, .fault e => some (Report.ofFault e)
  | _, _ => none

end Sys2Proof.Machine
end

