-- ==== Sys2Proof/Safety.lean ====
section
/-! DEFINITION. What a claim may call a good state and a safe run. -/

namespace Sys2Proof.Safety

open Sys2Proof.Machine

/-- Memory is in its one canonical form, so equal contents are equal data (log 8). -/
def MemoryCanonical (s : State) : Prop := s.mem.wf = true

/-- While the block awaits input, `PC` still addresses the `LD_VX_K` that waits, and `waitReg` is its `x`
(spec/10_state.md R21, spec/47_misc_timers_memory.md R161). -/
def WaitsAtKeyWait (s : State) : Prop := s.waiting = true → decodeWord s.fetchWord = some (.ldVxK s.waitReg)

/-- The invariant every STEP keeps. -/
def Inv (s : State) : Prop := MemoryCanonical s ∧ WaitsAtKeyWait s

/-- A state some sequence of operations leads to from the state after RESET (R24, R213), for some `GLYPH_TABLE`. -/
def Reachable (s : State) : Prop := ∃ (g : GlyphTable) (ops : List Operation), runOps ops (State.resetWith g) = s

/-- `k` STEPs from `s` raise no error. -/
def runsSafely : Nat → State → Bool
  | 0, _ => true
  | k + 1, s =>
    match step s with
    | .next t => runsSafely k t
    | _ => false

end Sys2Proof.Safety
end

