-- ==== Sys2Proof/Certificates/Slice0/Obligations.lean ====
section
/-! DEFINITION. The statements for the provers. Each docstring names the rule it formalises; where a clause rests on one
of the spec's own numbered decisions (D<n> of spec/92_eei_decisions.md, log 9) or on a choice of the model (log <n>),
the docstring says so and the statement is listed as derived. -/

namespace Sys2Proof.Claims

open Sys2Proof.Machine

/-! ### Words of the statements -/

/-- `NEXT` of R7. -/
def nextPC (s : State) : Word := BitVec.ofNat 16 ((s.PC.toNat + 2) % 65536)

/-- `SKIP` of R7. -/
def skipPC (s : State) : Word := BitVec.ofNat 16 ((s.PC.toNat + 4) % 65536)

/-- Every register but those listed is unchanged. -/
def SameRegsBut (rs : List Reg) (s t : State) : Prop := ∀ q, q ∉ rs → t.reg q = s.reg q

/-- Every byte of memory is unchanged, and so is the parameter `GLYPH_TABLE`. -/
def SameMemory (s t : State) : Prop := (∀ a : Word, t.readMem a = s.readMem a) ∧ t.mem.glyphs = s.mem.glyphs

/-- The return stack, slots and depth, is unchanged. -/
def SameStack (s t : State) : Prop := t.stack = s.stack ∧ t.SP = s.SP

/-- Both timers are unchanged. -/
def SameTimers (s t : State) : Prop := t.DT = s.DT ∧ t.ST = s.ST

/-- The bitmap and its notification are unchanged. -/
def SameScreen (s t : State) : Prop := t.display = s.display ∧ t.drawFlag = s.drawFlag

/-- Key states and the sound notification are unchanged. -/
def SameKeysAndSound (s t : State) : Prop := t.keys = s.keys ∧ t.soundFlag = s.soundFlag

/-- The awaiting-input state is unchanged. -/
def SameWait (s t : State) : Prop := t.waiting = s.waiting ∧ t.waitReg = s.waitReg

/-- The model's supply of free bytes is unchanged (log 2). -/
def SameSupply (s t : State) : Prop := t.rnd = s.rnd ∧ t.draws = s.draws

/-- Everything but general registers, `I`, `PC`, memory and the screen is unchanged. -/
def SameRest (s t : State) : Prop :=
  SameStack s t ∧ SameTimers s t ∧ SameKeysAndSound s t ∧ SameWait s t ∧ SameSupply s t

/-- The frame of an instruction that writes the listed registers and `PC`, and nothing else. -/
def OnlyRegs (rs : List Reg) (s t : State) : Prop :=
  SameRegsBut rs s t ∧ t.I = s.I ∧ SameMemory s t ∧ SameScreen s t ∧ SameRest s t

/-- The frame of an instruction that stores `len` bytes at `I`, moves `PC` and writes nothing else: the stored cells are
`EA(I)` to `EA(I + len - 1)`, with the model's own effective address. -/
def OnlyStores (len : Nat) (s t : State) : Prop :=
  SameRegsBut [] s t ∧ t.I = s.I ∧ SameScreen s t ∧ SameRest s t ∧ t.mem.glyphs = s.mem.glyphs ∧
    ∀ a < 4096, (∀ k < len, a ≠ ea (s.I + BitVec.ofNat 16 k)) → t.mem.read a = s.mem.read a

/-- The byte an instruction stores at `EA(I + j)`, if it stores one there: `LD_B` three decimal digits (R166),
`LD_MEM_V` the registers up to `V[x]` (R167). -/
def storedByte (i : Instr) (s : State) (j : Nat) : Option Byte :=
  match i, j with
  | .ldB x, 0 => some (BitVec.ofNat 8 ((s.reg x).toNat / 100))
  | .ldB x, 1 => some (BitVec.ofNat 8 ((s.reg x).toNat / 10 % 10))
  | .ldB x, 2 => some (BitVec.ofNat 8 ((s.reg x).toNat % 10))
  | .ldMemV x, j => if h : j ≤ x.val then some (s.reg ⟨j, Nat.lt_of_le_of_lt h x.isLt⟩) else none
  | _, _ => none

/-- `b` is what the cell `EA(a)` holds after `i` ran in `s`: the byte `i` stored there, else the byte `s` had there. -/
def HeldAfter (i : Instr) (s : State) (a : Word) (b : Byte) : Prop :=
  (∀ j v, storedByte i s j = some v → ea a = ea (s.I + BitVec.ofNat 16 j) → b = v) ∧
    ((∀ j v, storedByte i s j = some v → ea a ≠ ea (s.I + BitVec.ofNat 16 j)) → b = s.readMem a)

/-- The instructions that write a flag to `VF` (R12). -/
def WritesFlag : Instr → Prop
  | .addReg _ _ | .sub _ _ | .shr _ _ | .subn _ _ | .shl _ _ | .drw _ _ _ => True
  | _ => False

/-- The registers an instruction may write: the first row of R26 and the flag row. -/
def MayWriteReg (i : Instr) (q : Reg) : Prop :=
  match i with
  | .ldImm x _ | .addImm x _ | .ldReg x _ | .or x _ | .and x _ | .xor x _ | .rnd x _ | .ldVxDt x => q = x
  | .addReg x _ | .sub x _ | .shr x _ | .subn x _ | .shl x _ => q = x ∨ q = 0xF
  | .drw _ _ _ => q = 0xF
  | .ldVMem x => q ≤ x
  | _ => False

/-- The table of R71: `PC` after each instruction. -/
def pcAfter (i : Instr) (s : State) : Word :=
  match i with
  | .jp nnn | .call nnn => BitVec.ofNat 16 nnn.toNat
  | .jpV0 nnn => BitVec.ofNat 16 (nnn.toNat + (s.reg 0).toNat)
  | .ret => s.stack.toList.getD (s.SP.val - 1) 0
  | .seImm x nn => if s.reg x = nn then skipPC s else nextPC s
  | .sneImm x nn => if s.reg x ≠ nn then skipPC s else nextPC s
  | .seReg x y => if s.reg x = s.reg y then skipPC s else nextPC s
  | .sneReg x y => if s.reg x ≠ s.reg y then skipPC s else nextPC s
  | .skp x => if s.keys.toList.getD ((s.reg x).toNat % 16) false = true then skipPC s else nextPC s
  | .sknp x => if s.keys.toList.getD ((s.reg x).toNat % 16) false = false then skipPC s else nextPC s
  | .ldVxK _ => s.PC
  | _ => nextPC s

/-- Pixel `(r, c)` lies under a 1 bit of the sprite that `DRW x y n` draws: the set `S` of R142, by R140's coordinates
(`b[7 - col]` is column `col`, only the start is reduced). -/
def UnderSprite (s : State) (x y : Reg) (n : Fin 16) (r : Fin 32) (c : Fin 64) : Prop :=
  (s.reg x).toNat % 64 ≤ c.val ∧ c.val < (s.reg x).toNat % 64 + 8 ∧
    (s.reg y).toNat % 32 ≤ r.val ∧ r.val < (s.reg y).toNat % 32 + n.val ∧
      (s.readMem (s.I + BitVec.ofNat 16 (r.val - (s.reg y).toNat % 32))).getLsbD
        (7 - (c.val - (s.reg x).toNat % 64)) = true

/-- What the loop of R140 carries: the pixels by row and column, and `hit`. -/
structure Canvas where
  px : Nat → Nat → Bool
  hit : Bool

/-- The body of R140's inner loop for row `row`, column `col` of the sprite, `b` the byte read for the row. -/
def plot (x0 y0 row : Nat) (b : Byte) (cv : Canvas) (col : Nat) : Canvas :=
  if b.getLsbD (7 - col) = true ∧ x0 + col ≤ 63 ∧ y0 + row ≤ 31 then
    { px := fun r c => if r = y0 + row ∧ c = x0 + col then !(cv.px r c) else cv.px r c
      hit := cv.hit || cv.px (y0 + row) (x0 + col) }
  else cv

/-- The two loops of R140, run as written. -/
def drawLoop (s : State) (x0 y0 n : Nat) : Canvas :=
  (List.range n).foldl
    (fun cv row => (List.range 8).foldl (plot x0 y0 row (s.readMem (s.I + BitVec.ofNat 16 row))) cv)
    { px := fun r c => (s.display.toList.getD r 0).getMsbD c, hit := false }

/-- Two states a program cannot tell apart: they agree but for bits 15..12 of `PC`, `I` and the return addresses, the
stack slots not in use, `ST`, the two notification flags, and `waitReg` while not awaiting input (R21). -/
def Indistinguishable (s t : State) : Prop :=
  (∀ a, t.mem.read a = s.mem.read a) ∧ (∀ q, t.reg q = s.reg q) ∧ ea t.I = ea s.I ∧ ea t.PC = ea s.PC ∧
    t.SP = s.SP ∧ (∀ k : Fin 16, k.val < s.SP.val → ea t.stack[k] = ea s.stack[k]) ∧ t.DT = s.DT ∧ t.keys = s.keys ∧
    t.display = s.display ∧ t.waiting = s.waiting ∧ (s.waiting = true → t.waitReg = s.waitReg) ∧ SameSupply s t

/-- The operations that neither reset nor load: they cannot cure an error (R189). -/
def LeavesProgram : Operation → Prop
  | .reset | .load _ => False
  | _ => True

/-- `n` ticks (R192). -/
def ticks : Nat → State → State
  | 0, s => s
  | n + 1, s => ticks n s.tick

end Sys2Proof.Claims

open Sys2Proof Sys2Proof.Machine Sys2Proof.Safety Sys2Proof.Claims

/-! ### Encoding and decoding (spec/30_encoding.md) -/

/-- The decoder reads back every instruction from its bytes, whatever follows them, every operand at every value
(R60, R61, R62, R64). -/
def Obligations.DecodeReadsEveryEncoding : Prop :=
  ∀ (i : Instr) (rest : List Byte), decodeBytes (encodeBytes i ++ rest) = .ok (i, rest)

/-- A word that decodes is the encoding of what it decodes to: no bit of a legal word is lost (R61, R64). The `y` field
of `SHR` and `SHL`, which R67 says is ignored, is kept in the syntax (log 10). -/
def Obligations.EncodingRebuildsEveryDecodedWord : Prop :=
  ∀ (w : Word) (i : Instr), decodeWord w = some i → encode i = w

/-- The case analysis of R64 decodes a word to the instruction whose row of R65 it selects by match and mask, and to
none when it selects no row. Illegal sub-opcodes of families 5, 8, 9, E are the spec's decision D7 (log 9). -/
def Obligations.DecodeFollowsTheOpcodeMap : Prop :=
  ∀ (w : Word), (∀ m : Mnemonic, (decodeWord w).map Instr.mnemonic = some m ↔ m.row.selects w = true) ∧
    (decodeWord w = none ↔ legalWord w = false)

/-- No word selects two rows of R65 (R72, which the spec marks as derived). -/
def Obligations.OpcodeRowsDoNotOverlap : Prop :=
  ∀ (w : Word) (m m' : Mnemonic), m.row.selects w = true → m'.row.selects w = true → m = m'

/-- The illegal words, family by family: the table of R66. Families 5, 8, 9 and E are decision D7 (log 9). -/
def Obligations.IllegalWordsAreTheTableOfR66 : Prop :=
  ∀ w : Word, decodeWord w = none ↔
    (opOf w = 0x0 ∧ w ≠ 0x00E0 ∧ w ≠ 0x00EE) ∨ (opOf w = 0x5 ∧ (nOf w).val ≠ 0) ∨
      (opOf w = 0x8 ∧ (nOf w).val ∈ [0x8, 0x9, 0xA, 0xB, 0xC, 0xD, 0xF]) ∨ (opOf w = 0x9 ∧ (nOf w).val ≠ 0) ∨
        (opOf w = 0xE ∧ (nnOf w).toNat ∉ [0x9E, 0xA1]) ∨
          (opOf w = 0xF ∧ (nnOf w).toNat ∉ [0x07, 0x0A, 0x15, 0x18, 0x1E, 0x29, 0x33, 0x55, 0x65])

/-- A well-formed assembler line assembles to a word that decodes to the instruction the line spells: every operand
lands in the field R65 gives it. The assembler syntax is the spec's own decision D21 (log 9). -/
def Obligations.AssembledLinesDecode : Prop :=
  ∀ l : AsmLine, l.wellFormed = true → ∃ i, decodeWord l.word = some i ∧ i.line = l

/-- Words written out from the patterns of R65, at least one for each of the sixteen families, and two illegal ones. -/
def Obligations.WordsOfTheSpecDecode : Prop :=
  decodeWord 0x00E0 = some .cls ∧ decodeWord 0x00EE = some .ret ∧ decodeWord 0x1ABC = some (.jp 0xABC) ∧
    decodeWord 0x2300 = some (.call 0x300) ∧ decodeWord 0x3F01 = some (.seImm 0xF 1) ∧
    decodeWord 0x4211 = some (.sneImm 2 0x11) ∧ decodeWord 0x5AB0 = some (.seReg 0xA 0xB) ∧
    decodeWord 0x6042 = some (.ldImm 0 0x42) ∧ decodeWord 0x7002 = some (.addImm 0 2) ∧
    decodeWord 0x8127 = some (.subn 1 2) ∧ decodeWord 0x9AB0 = some (.sneReg 0xA 0xB) ∧
    decodeWord 0xA300 = some (.ldI 0x300) ∧ decodeWord 0xB345 = some (.jpV0 0x345) ∧
    decodeWord 0xC1FF = some (.rnd 1 0xFF) ∧ decodeWord 0xD0F1 = some (.drw 0 0xF 1) ∧
    decodeWord 0xEFA1 = some (.sknp 0xF) ∧ decodeWord 0xF50A = some (.ldVxK 5) ∧
    decodeWord 0xF255 = some (.ldMemV 2) ∧ decodeWord 0x01E0 = none ∧ decodeWord 0x0000 = none

/-! ### The step cycle (R70, R71) -/

/-- A STEP that is not awaiting input runs the instruction that the bytes at `EA(PC)` and `EA(PC + 1)` decode to, the
first byte the high one (R44, R45, R70); addresses wrap by decision D1 (log 9). Nothing is done around `exec`. -/
def Obligations.StepRunsTheFetchedInstruction : Prop :=
  ∀ (s : State) (i : Instr), s.waiting = false →
    decodeWord (s.mem.read (s.PC.toNat % 4096) ++ s.mem.read ((s.PC.toNat + 1) % 4096)) = some i → step s = exec i s

/-- A STEP raises exactly the errors of R180 that R181, R182, R183 say, each with the fetched word, and the model never
refuses. The payload of the stack errors is decision D18, the illegal words of families 5, 8, 9, E decision D7
(log 9); that an error is a Host fault is log 4. -/
def Obligations.StepRaisesExactlyItsThreeErrors : Prop :=
  ∀ s : State, (∀ e, step s = .fault e ↔ s.waiting = false ∧
      ((decodeWord s.fetchWord = none ∧ e = .unknownInstruction s.fetchWord) ∨
        (∃ nnn, decodeWord s.fetchWord = some (.call nnn) ∧ s.SP.val = 16 ∧ e = .stackOverflow s.fetchWord) ∨
          (decodeWord s.fetchWord = some .ret ∧ s.SP.val = 0 ∧ e = .stackUnderflow s.fetchWord))) ∧
    ∀ r, step s ≠ .refused r

/-- While awaiting input a STEP does nothing, whatever lies at `PC`, and reports `AwaitingInput` (R70, R188, R203,
decision D13, log 9). -/
def Obligations.StepWhileAwaitingInputDoesNothing : Prop :=
  ∀ (s : State) (r : Byte), s.waiting = true → step s = .next s ∧ report (.step r) s = some .awaitingInput

/-- The results of R180 with their codes, for STEP and LOAD: 1 when STEP found the block awaiting input or executed
`LD_VX_K` (R70, decision D13), 2, 3, 4 for its errors, 5 for a `LOAD` that is too long, else 0. The codes are decision
D18 (log 9); the report is read off the state (log 6). -/
def Obligations.ReportsAreTheResultsOfR180 : Prop :=
  ∀ s : State, (∀ r, (report (.step r) s).map Report.code = some (if s.waiting = true then 1 else
      match decodeWord s.fetchWord with
      | none => 2
      | some (.call _) => if s.SP.val = 16 then 3 else 0
      | some .ret => if s.SP.val = 0 then 4 else 0
      | some (.ldVxK _) => 1
      | some _ => 0)) ∧
    ∀ bytes, (report (.load bytes) s).map Report.code = some (if bytes.length > 3584 then 5 else 0)

/-- `PC` after every instruction that completes: the table of R71. `RET`'s target is the popped slot; `LD_VX_K` leaves
`PC` by decision D13 and the key index is reduced by D14 (log 9). -/
def Obligations.EveryInstructionMovesPcByTheTable : Prop :=
  ∀ (i : Instr) (s t : State), exec i s = .next t → t.PC = pcAfter i s

/-! ### Family 0, jump and call (spec/40_family0_jump_call.md) -/

/-- `CLS`: every pixel 0, `drawFlag` 1, `PC` at `NEXT`, nothing else (R80; `drawFlag` is decision D11, log 9). -/
def Obligations.ClsClearsTheDisplay : Prop :=
  ∀ s : State, ∃ t, exec .cls s = .next t ∧ (∀ r c, t.pixel r c = false) ∧ t.drawFlag = true ∧ t.PC = nextPC s ∧
    SameRegsBut [] s t ∧ t.I = s.I ∧ SameMemory s t ∧ SameRest s t

/-- `RET` with a return address in use: `SP` falls by one, `PC` is the slot then addressed, no slot is cleared
(R81; that the slot is kept is decision D25, log 9). -/
def Obligations.RetPopsTheReturnAddress : Prop :=
  ∀ s : State, 0 < s.SP.val → ∃ t, exec .ret s = .next t ∧ t.SP.val + 1 = s.SP.val ∧
    (∀ k : Fin 16, k.val = t.SP.val → t.PC = s.stack[k]) ∧ t.stack = s.stack ∧ SameRegsBut [] s t ∧ t.I = s.I ∧
    SameMemory s t ∧ SameScreen s t ∧ SameTimers s t ∧ SameKeysAndSound s t ∧ SameWait s t ∧ SameSupply s t

/-- `CALL` with a free slot: the slot at the old depth gets `NEXT`, the depth rises by one, `PC` is `nnn` (R83; what is
pushed is decision D8, log 9). -/
def Obligations.CallPushesTheNextAddress : Prop :=
  ∀ (s : State) (nnn : Addr12), s.SP.val < 16 → ∃ t, exec (.call nnn) s = .next t ∧ t.SP.val = s.SP.val + 1 ∧
    (∀ k : Fin 16, t.stack[k] = if k.val = s.SP.val then nextPC s else s.stack[k]) ∧ t.PC.toNat = nnn.toNat ∧
    SameRegsBut [] s t ∧ t.I = s.I ∧ SameMemory s t ∧ SameScreen s t ∧ SameTimers s t ∧ SameKeysAndSound s t ∧
    SameWait s t ∧ SameSupply s t

/-- `RET` on an empty stack and `CALL` on a full one raise the stack errors with their own words (R182, R183; the
payload is decision D18, log 9). -/
def Obligations.StackErrorsStopCallAndRet : Prop :=
  (∀ s : State, s.SP.val = 0 → exec .ret s = .fault (.stackUnderflow 0x00EE)) ∧
    ∀ (s : State) (nnn : Addr12), s.SP.val = 16 →
      exec (.call nnn) s = .fault (.stackOverflow (BitVec.ofNat 16 (0x2000 + nnn.toNat)))

/-- A `RET` in any state whose return stack is the one a `CALL` left goes to the instruction after the call and
restores the depth (R81, R83, source example S5 of spec/95_test_vectors.md; decision D8, log 9). -/
def Obligations.ReturnGoesBehindTheCall : Prop :=
  ∀ (s t u : State) (nnn : Addr12), exec (.call nnn) s = .next t → SameStack t u →
    ∃ v, exec .ret u = .next v ∧ v.PC = nextPC s ∧ v.SP = s.SP

/-- `JP`, the word `1nnn`: `PC` is `nnn` and nothing else changes (R82). -/
def Obligations.JpSetsPc : Prop :=
  ∀ (s : State) (nnn : Addr12), decodeWord (formatA 0x1 nnn) = some (.jp nnn) ∧
    exec (.jp nnn) s = .next { s with PC := BitVec.ofNat 16 nnn.toNat }

/-- `JP_V0`, the word `Bnnn`: `PC` is the unreduced sum of `nnn` and `V[0]`, and nothing else changes (R131). -/
def Obligations.JpV0AddsV0 : Prop :=
  ∀ (s : State) (nnn : Addr12), decodeWord (formatA 0xB nnn) = some (.jpV0 nnn) ∧
    ∃ t, exec (.jpV0 nnn) s = .next t ∧ t.PC.toNat = nnn.toNat + (s.reg 0).toNat ∧ OnlyRegs [] s t

/-- A self-jump is a fixed point of STEP (R215, which the spec marks as derived). -/
def Obligations.SelfJumpChangesNothing : Prop :=
  ∀ s : State, s.waiting = false → s.PC.toNat < 4096 →
    decodeWord s.fetchWord = some (.jp (BitVec.ofNat 12 s.PC.toNat)) → step s = .next s

/-! ### Skips (spec/41_skip_compare.md, spec/46_key_skip.md) -/

/-- The four compare skips, `3xnn`, `4xnn`, `5xy0`, `9xy0`: `PC` is `SKIP` or `NEXT` by the comparison, and nothing else
changes (R90 to R93). -/
def Obligations.CompareSkipsMovePcOnly : Prop :=
  ∀ (s : State) (x y : Reg) (nn : Byte),
    decodeWord (formatXK 0x3 x nn) = some (.seImm x nn) ∧ decodeWord (formatXK 0x4 x nn) = some (.sneImm x nn) ∧
    decodeWord (formatXYN 0x5 x y 0) = some (.seReg x y) ∧ decodeWord (formatXYN 0x9 x y 0) = some (.sneReg x y) ∧
    exec (.seImm x nn) s = .next { s with PC := if s.reg x = nn then skipPC s else nextPC s } ∧
    exec (.sneImm x nn) s = .next { s with PC := if s.reg x = nn then nextPC s else skipPC s } ∧
    exec (.seReg x y) s = .next { s with PC := if s.reg x = s.reg y then skipPC s else nextPC s } ∧
    exec (.sneReg x y) s = .next { s with PC := if s.reg x = s.reg y then nextPC s else skipPC s }

/-- `SKP` and `SKNP`: exactly one of them skips, by the key that the low nibble of `V[x]` names, and nothing but `PC`
changes (R150, R151; the reduction to the low nibble is decision D14, log 9). -/
def Obligations.KeySkipsMovePcOnly : Prop :=
  ∀ (s : State) (x : Reg) (k : Key), k.val = (s.reg x).toNat % 16 →
    exec (.skp x) s = .next { s with PC := if s.keys[k] = true then skipPC s else nextPC s } ∧
    exec (.sknp x) s = .next { s with PC := if s.keys[k] = true then nextPC s else skipPC s }

/-! ### Immediates and the ALU (spec/42_immediate.md, spec/43_alu.md) -/

/-- `LD_IMM` and `ADD_IMM`, `6xnn` and `7xnn`: the byte, or the sum modulo 256; no flag (R100, R101). -/
def Obligations.ImmediatesWriteOneRegister : Prop :=
  ∀ (s : State) (x : Reg) (nn : Byte),
    decodeWord (formatXK 0x6 x nn) = some (.ldImm x nn) ∧ decodeWord (formatXK 0x7 x nn) = some (.addImm x nn) ∧
    (∃ t, exec (.ldImm x nn) s = .next t ∧ t.reg x = nn ∧ t.PC = nextPC s ∧ OnlyRegs [x] s t) ∧
    ∃ t, exec (.addImm x nn) s = .next t ∧ (t.reg x).toNat = ((s.reg x).toNat + nn.toNat) % 256 ∧ t.PC = nextPC s ∧
      OnlyRegs [x] s t

/-- `LD_REG`, `OR`, `AND`, `XOR`, `8xy0` to `8xy3`: the result in `V[x]`, no flag, nothing else (R110 to R113). -/
def Obligations.CopyAndLogicWriteOneRegister : Prop :=
  ∀ (s : State) (x y : Reg),
    decodeWord (formatXYN 0x8 x y 0) = some (.ldReg x y) ∧ decodeWord (formatXYN 0x8 x y 1) = some (.or x y) ∧
    decodeWord (formatXYN 0x8 x y 2) = some (.and x y) ∧ decodeWord (formatXYN 0x8 x y 3) = some (.xor x y) ∧
    (∃ t, exec (.ldReg x y) s = .next t ∧ t.reg x = s.reg y ∧ t.PC = nextPC s ∧ OnlyRegs [x] s t) ∧
    (∃ t, exec (.or x y) s = .next t ∧
      (∀ k, (t.reg x).getLsbD k = ((s.reg x).getLsbD k || (s.reg y).getLsbD k)) ∧ t.PC = nextPC s ∧ OnlyRegs [x] s t) ∧
    (∃ t, exec (.and x y) s = .next t ∧
      (∀ k, (t.reg x).getLsbD k = ((s.reg x).getLsbD k && (s.reg y).getLsbD k)) ∧ t.PC = nextPC s ∧ OnlyRegs [x] s t) ∧
    ∃ t, exec (.xor x y) s = .next t ∧
      (∀ k, (t.reg x).getLsbD k = ((s.reg x).getLsbD k ^^ (s.reg y).getLsbD k)) ∧ t.PC = nextPC s ∧ OnlyRegs [x] s t

/-- `ADD_REG`: the sum modulo 256 in `V[x]` and the carry in `VF`; when `x` is `0xF` the carry remains
(R114, R119; the order of the writes is decision D5, log 9). -/
def Obligations.AddWritesSumAndCarry : Prop :=
  ∀ (s : State) (x y : Reg), ∃ t, exec (.addReg x y) s = .next t ∧
    (x ≠ 0xF → (t.reg x).toNat = ((s.reg x).toNat + (s.reg y).toNat) % 256) ∧
    t.reg 0xF = (if (s.reg x).toNat + (s.reg y).toNat > 255 then 1 else 0) ∧ t.PC = nextPC s ∧ OnlyRegs [x, 0xF] s t

/-- `SUB` and `SUBN`: the difference modulo 256 in `V[x]` and 1 in `VF` exactly when there is no borrow; when `x` is
`0xF` the flag remains (R115, R117, R119; decision D5, log 9). -/
def Obligations.SubtractionsWriteDifferenceAndNotBorrow : Prop :=
  ∀ (s : State) (x y : Reg),
    (∃ t, exec (.sub x y) s = .next t ∧
      (x ≠ 0xF → (t.reg x).toNat = ((s.reg x).toNat + 256 - (s.reg y).toNat) % 256) ∧
      t.reg 0xF = (if (s.reg y).toNat > (s.reg x).toNat then 0 else 1) ∧ t.PC = nextPC s ∧ OnlyRegs [x, 0xF] s t) ∧
    ∃ t, exec (.subn x y) s = .next t ∧
      (x ≠ 0xF → (t.reg x).toNat = ((s.reg y).toNat + 256 - (s.reg x).toNat) % 256) ∧
      t.reg 0xF = (if (s.reg x).toNat > (s.reg y).toNat then 0 else 1) ∧ t.PC = nextPC s ∧ OnlyRegs [x, 0xF] s t

/-- `SHR` and `SHL` shift `V[x]` in place whatever `y` is, `VF` the bit shifted out; when `x` is `0xF` the flag remains
(R67, R116, R118, R119; which register is shifted is decision D6, the order D5, log 9). -/
def Obligations.ShiftsMoveVxAndIgnoreY : Prop :=
  ∀ (s : State) (x y : Reg),
    (∃ t, exec (.shr x y) s = .next t ∧ (x ≠ 0xF → (t.reg x).toNat = (s.reg x).toNat / 2) ∧
      (t.reg 0xF).toNat = (s.reg x).toNat % 2 ∧ t.PC = nextPC s ∧ OnlyRegs [x, 0xF] s t) ∧
    ∃ t, exec (.shl x y) s = .next t ∧ (x ≠ 0xF → (t.reg x).toNat = (s.reg x).toNat * 2 % 256) ∧
      (t.reg 0xF).toNat = (s.reg x).toNat / 128 ∧ t.PC = nextPC s ∧ OnlyRegs [x, 0xF] s t

/-- After an instruction that writes a flag `VF` is 0 or 1; an instruction writes no register that R26 does not give it,
so every other instruction leaves `VF` alone unless it names it (R12, R26; no flag on `ADD_I` is decision D17, the
place of the flag D4, log 9). -/
def Obligations.OnlyNamedRegistersAreWritten : Prop :=
  ∀ (i : Instr) (s t : State), exec i s = .next t →
    (WritesFlag i → t.reg 0xF = 0 ∨ t.reg 0xF = 1) ∧ ∀ q, ¬ MayWriteReg i q → t.reg q = s.reg q

/-! ### Index, random (spec/44_index_jump_random.md) -/

/-- `LD_I`, the word `Annn`: `I` is `nnn` with bits 15..12 zero (R130). -/
def Obligations.LdIWritesTheAddress : Prop :=
  ∀ (s : State) (nnn : Addr12), decodeWord (formatA 0xA nnn) = some (.ldI nnn) ∧
    ∃ t, exec (.ldI nnn) s = .next t ∧ t.I.toNat = nnn.toNat ∧ t.PC = nextPC s ∧
      SameRegsBut [] s t ∧ SameMemory s t ∧ SameScreen s t ∧ SameRest s t

/-- `ADD_I` adds modulo 65536 without a flag, `LD_F` gives five times the low nibble (R164, R165; decisions D3, D15,
D17, log 9). -/
def Obligations.IndexArithmeticWritesIOnly : Prop :=
  ∀ (s : State) (x : Reg),
    (∃ t, exec (.addI x) s = .next t ∧ t.I.toNat = (s.I.toNat + (s.reg x).toNat) % 65536 ∧ t.PC = nextPC s ∧
      SameRegsBut [] s t ∧ SameMemory s t ∧ SameScreen s t ∧ SameRest s t) ∧
    ∃ t, exec (.ldF x) s = .next t ∧ t.I.toNat = 5 * ((s.reg x).toNat % 16) ∧ t.PC = nextPC s ∧
      SameRegsBut [] s t ∧ SameMemory s t ∧ SameScreen s t ∧ SameRest s t

/-- `RND`: whatever input byte `r` the STEP is given, `V[x]` gets `r` under the mask `nn`; the only other effect is on
the model's supply of free bytes (R132; the byte as an input is decision D19, log 9, its place in State log 2). -/
def Obligations.RndMasksTheInputByte : Prop :=
  ∀ (s : State) (x : Reg) (nn r : Byte), ∃ t, exec (.rnd x nn) (s.withRnd r) = .next t ∧
    (∀ k, (t.reg x).getLsbD k = (r.getLsbD k && nn.getLsbD k)) ∧ t.PC = nextPC s ∧ SameRegsBut [x] s t ∧ t.I = s.I ∧
    SameMemory s t ∧ SameScreen s t ∧ SameStack s t ∧ SameTimers s t ∧ SameKeysAndSound s t ∧ SameWait s t

/-! ### Draw (spec/45_draw.md) -/

/-- `DRW` inverts exactly the pixels under a 1 bit of the sprite, clipped at the edges; `VF` is 1 exactly when one of
them was set; `drawFlag` is 1; nothing else changes (R140, R141; bit order, flag, and old `VF` as coordinate are
decisions D9, D11, D5, the wrap of reads D1, log 9). -/
def Obligations.DrawInvertsExactlyTheSprite : Prop :=
  ∀ (s : State) (x y : Reg) (n : Fin 16), ∃ t, exec (.drw x y n) s = .next t ∧
    (∀ r c, UnderSprite s x y n r c → t.pixel r c = !(s.pixel r c)) ∧
    (∀ r c, ¬ UnderSprite s x y n r c → t.pixel r c = s.pixel r c) ∧
    ((∃ r c, UnderSprite s x y n r c ∧ s.pixel r c = true) → t.reg 0xF = 1) ∧
    ((¬ ∃ r c, UnderSprite s x y n r c ∧ s.pixel r c = true) → t.reg 0xF = 0) ∧
    t.drawFlag = true ∧ t.PC = nextPC s ∧ SameRegsBut [0xF] s t ∧ t.I = s.I ∧ SameMemory s t ∧ SameRest s t

/-- `DRW`, which the model computes a row at a time, leaves the display and the collision that the pixel loop of R140
leaves, run as the rule writes it (R140; decisions D1, D5, D9, log 9). -/
def Obligations.DrawIsThePixelLoop : Prop :=
  ∀ (s t : State) (x y : Reg) (n : Fin 16), exec (.drw x y n) s = .next t →
    (∀ (r : Fin 32) (c : Fin 64), t.pixel r c =
      (drawLoop s ((s.reg x).toNat % 64) ((s.reg y).toNat % 32) n.val).px r.val c.val) ∧
    t.reg 0xF = if (drawLoop s ((s.reg x).toNat % 64) ((s.reg y).toNat % 32) n.val).hit then 1 else 0

/-- The same `DRW` twice restores the display, and the second sets `VF` exactly when some pixel of the sprite was 0
before the first; `x` and `y` are not `0xF` (R142, which the spec marks as derived). -/
def Obligations.DrawTwiceRestoresTheDisplay : Prop :=
  ∀ (s t u : State) (x y : Reg) (n : Fin 16), x ≠ 0xF → y ≠ 0xF → exec (.drw x y n) s = .next t →
    exec (.drw x y n) t = .next u → u.display = s.display ∧
      (u.reg 0xF = 1 ↔ ∃ r c, UnderSprite s x y n r c ∧ s.pixel r c = false)

/-! ### Family F (spec/47_misc_timers_memory.md) -/

/-- The three timer moves, `Fx07`, `Fx15`, `Fx18`, each with nothing else changed, `soundFlag` included
(R160, R162, R163). -/
def Obligations.TimerMovesCopyOneByte : Prop :=
  ∀ (s : State) (x : Reg), decodeWord (formatXK 0xF x 0x07) = some (.ldVxDt x) ∧
    decodeWord (formatXK 0xF x 0x15) = some (.ldDtVx x) ∧ decodeWord (formatXK 0xF x 0x18) = some (.ldStVx x) ∧
    (∃ t, exec (.ldVxDt x) s = .next t ∧ t.reg x = s.DT ∧ t.PC = nextPC s ∧ OnlyRegs [x] s t) ∧
    exec (.ldDtVx x) s = .next { s with DT := s.reg x, PC := nextPC s } ∧
    exec (.ldStVx x) s = .next { s with ST := s.reg x, PC := nextPC s }

/-- `LD_VX_K` enters the awaiting-input state with its `x` and changes nothing else, whatever keys are down (R161;
decision D13, log 9). -/
def Obligations.KeyWaitChangesOnlyTheWaitState : Prop :=
  ∀ (s : State) (x : Reg), exec (.ldVxK x) s = .next { s with waiting := true, waitReg := x }

/-- `LD_B`: hundreds, tens and ones at `EA(I)`, `EA(I + 1)`, `EA(I + 2)`; no other byte of memory, not `I`, not any
register changes (R166; decisions D1, D16, log 9). -/
def Obligations.DecimalDigitsAreStored : Prop :=
  ∀ (s : State) (x : Reg), ∃ t, exec (.ldB x) s = .next t ∧
    (t.mem.read (ea s.I)).toNat = (s.reg x).toNat / 100 ∧
    (t.mem.read (ea (s.I + 1))).toNat = (s.reg x).toNat / 10 % 10 ∧
    (t.mem.read (ea (s.I + 2))).toNat = (s.reg x).toNat % 10 ∧ t.PC = nextPC s ∧ OnlyStores 3 s t

/-- `LD_MEM_V`: `V[k]` at `EA(I + k)` for `k` up to `x`; no other byte of memory, not `I`, not any register changes
(R167; decisions D1, D16, log 9). -/
def Obligations.RegistersAreStored : Prop :=
  ∀ (s : State) (x : Reg), ∃ t, exec (.ldMemV x) s = .next t ∧
    (∀ k, k ≤ x → t.mem.read (ea (s.I + BitVec.ofNat 16 k.val)) = s.reg k) ∧ t.PC = nextPC s ∧
    OnlyStores (x.val + 1) s t

/-- `LD_V_MEM`: `V[k]` is the byte at `EA(I + k)` for `k` up to `x`; the registers above, `I` and memory are unchanged
(R168; decisions D1, D16, log 9). -/
def Obligations.RegistersAreLoaded : Prop :=
  ∀ (s : State) (x : Reg), ∃ t, exec (.ldVMem x) s = .next t ∧
    (∀ k, k ≤ x → t.reg k = s.mem.read ((s.I.toNat + k.val) % 4096)) ∧ (∀ k, ¬ k ≤ x → t.reg k = s.reg k) ∧
    t.PC = nextPC s ∧ t.I = s.I ∧ SameMemory s t ∧ SameScreen s t ∧ SameRest s t

/-- A block stored by `LD_MEM_V` is read back by `LD_V_MEM` in any state with that memory and that `I`, whatever the
registers hold by then (R167, R168, R54; decisions D1, D16, log 9). -/
def Obligations.LoadReadsBackTheStoredBlock : Prop :=
  ∀ (s t u : State) (x : Reg), exec (.ldMemV x) s = .next t → SameMemory t u → u.I = t.I →
    ∃ v, exec (.ldVMem x) u = .next v ∧ ∀ k, k ≤ x → v.reg k = s.reg k

/-! ### Memory (spec/20_memory.md) -/

/-- A read returns the byte last written to the cell its address names, and a write changes no other cell; addresses
that differ in bits 15..12 name one cell (R42, R43; decision D1, log 9). -/
def Obligations.ReadReturnsTheLatestWrite : Prop :=
  ∀ (s : State) (a b : Word) (v : Byte),
    (b.toNat % 4096 = a.toNat % 4096 → (s.writeMem a v).readMem b = v) ∧
    (b.toNat % 4096 ≠ a.toNat % 4096 → (s.writeMem a v).readMem b = s.readMem b)

/-- Memory is written by `LD_B` and `LD_MEM_V` only, in the cells R47 lists, by every STEP from every state
(R40, R47; decision D1, log 9). -/
def Obligations.OnlyStoresWriteMemory : Prop :=
  ∀ (i : Instr) (s t : State), exec i s = .next t → t.mem.glyphs = s.mem.glyphs ∧
    ∀ a < 4096, t.mem.read a ≠ s.mem.read a →
      (∃ x, i = .ldB x ∧ ∃ k < 3, a = ea (s.I + BitVec.ofNat 16 k)) ∨
        ∃ x, i = .ldMemV x ∧ ∃ k ≤ x.val, a = ea (s.I + BitVec.ofNat 16 k)

/-- The first fetch after any instruction sees every byte the instruction stored, at whichever offset from `I` the
fetched cells lie, by `LD_B` as by `LD_MEM_V`, one byte of the word or both, the instruction's own bytes included, and
sees memory as it was in every cell not stored to; the first byte is the high one (R44, R47, R52, which the spec marks as
derived; decision D1, log 9). -/
def Obligations.StoreIsSeenByTheNextFetch : Prop :=
  ∀ (i : Instr) (s t : State), exec i s = .next t →
    HeldAfter i s t.PC (t.fetchWord.extractLsb' 8 8) ∧ HeldAfter i s (t.PC + 1) (t.fetchWord.extractLsb' 0 8)

/-- Two canonical memories of one machine with equal contents are equal data (log 8). -/
def Obligations.CanonicalMemoryIsUnique : Prop :=
  ∀ m m' : Memory, m.wf = true → m'.wf = true → m'.glyphs = m.glyphs → (∀ a < 4096, m'.read a = m.read a) → m' = m

/-! ### The whole machine (spec/10_state.md) -/

/-- No instruction changes an element that R26 does not give it: the stack is `CALL`'s and `RET`'s, the display
`CLS`'s and `DRW`'s, `I` that of `LD_I`, `ADD_I`, `LD_F`, the timers those of `LD_DT_VX` and `LD_ST_VX`, the wait state
`LD_VX_K`'s; keys and `soundFlag` are no instruction's, and none clears `drawFlag`
(R14 to R21, R26; decisions D11, D13, D16, log 9). -/
def Obligations.EachElementHasItsWriters : Prop :=
  ∀ (i : Instr) (s t : State), exec i s = .next t →
    (¬ SameStack s t → i.mnemonic = .call ∨ i.mnemonic = .ret) ∧
    (t.display ≠ s.display → i.mnemonic = .cls ∨ i.mnemonic = .drw) ∧
    (t.drawFlag = if i.mnemonic = .cls ∨ i.mnemonic = .drw then true else s.drawFlag) ∧
    (t.I ≠ s.I → i.mnemonic = .ldI ∨ i.mnemonic = .addI ∨ i.mnemonic = .ldF) ∧
    (t.DT ≠ s.DT → i.mnemonic = .ldDtVx) ∧ (t.ST ≠ s.ST → i.mnemonic = .ldStVx) ∧
    (¬ SameWait s t → i.mnemonic = .ldVxK) ∧ SameKeysAndSound s t

/-- A program cannot see bits 15..12 of `PC`, `I` and the return addresses, stale stack slots, `ST`, the notification
flags or a stale `waitReg`: from two states that differ in nothing else a STEP raises the same error or leads to two
states that differ in nothing else (R13, R14, R15, R21, marked there as derived; decisions D1, D3, D25, log 9). -/
def Obligations.ProgramsCannotSeeHiddenState : Prop :=
  ∀ s t : State, Indistinguishable s t →
    (∀ s', step s = .next s' → ∃ t', step t = .next t' ∧ Indistinguishable s' t') ∧
    ∀ e, step s = .fault e → step t = .fault e

/-! ### Invariants -/

/-- After RESET, for every glyph table, memory is canonical and the block is not awaiting input; `State.reset` is one of
these states (R27, R28; the invariant is the model's, log 8). -/
def Obligations.ResetMeetsTheInvariant : Prop :=
  (∀ g, Inv (State.resetWith g)) ∧ ∃ g, State.reset = State.resetWith g

/-- Every STEP from every state keeps the invariant: memory in canonical form (log 8), and a block that awaits input
still has at `PC` the `LD_VX_K` that waits, with `waitReg` its `x` (R21, R161; decision D13, log 9). -/
def Obligations.StepKeepsTheInvariant : Prop :=
  ∀ s t : State, Inv s → step s = .next t → Inv t

/-- Every host operation but `LOAD` keeps the invariant, `LOAD` of any bytes keeps memory canonical (it may write over
the instruction that waits), so memory is canonical in every reachable state, for every schedule the host chooses
(R24, R191; decisions D13, D22, D23, log 9; log 5, log 8). -/
def Obligations.EveryScheduleKeepsTheInvariant : Prop :=
  (∀ (op : Operation) (s : State), (∀ bytes, op ≠ .load bytes) → Inv s → Inv (after op s)) ∧
    (∀ (bytes : List Byte) (s : State), MemoryCanonical s → MemoryCanonical (after (.load bytes) s)) ∧
    ∀ s : State, Reachable s → MemoryCanonical s

/-! ### Host operations (spec/60_exceptions.md, spec/70_reset_and_hazards.md) -/

/-- `RESET` from any state leaves every element at the value of R27, whatever it was: `memory` the glyph table and
zeros; a second `RESET` changes nothing (R27, R210, R211; the flags and the wait state are decision D12, log 9; the
model's supply of free bytes is not state of the block and stays, log 3). -/
def Obligations.ResetSetsEveryElement : Prop :=
  ∀ s : State, ∃ t, perform .reset s = .next t ∧ (∀ q, t.reg q = 0) ∧ t.I.toNat = 0 ∧ t.PC.toNat = 0x200 ∧
    t.SP.val = 0 ∧ (∀ k : Fin 16, t.stack[k] = 0) ∧ t.DT = 0 ∧ t.ST = 0 ∧ (∀ k : Fin 16, t.keys[k] = false) ∧
    (∀ r c, t.pixel r c = false) ∧ t.drawFlag = false ∧ t.soundFlag = false ∧ t.waiting = false ∧ t.waitReg = 0 ∧
    (∀ a : Fin 80, t.mem.read a.val = s.mem.glyphs[a]) ∧ (∀ a, 80 ≤ a → t.mem.read a = 0) ∧
    t.mem.glyphs = s.mem.glyphs ∧ SameSupply s t ∧ perform .reset t = .next t

/-- `LOAD` of at most 3584 bytes puts them at 0x200 and up and changes no other cell and no other element; of more, it
raises `ProgramTooLarge` (R184, R212; that it is allowed at any time is decision D23, log 9). -/
def Obligations.LoadCopiesTheImageOrRejectsIt : Prop :=
  ∀ (s : State) (bytes : List Byte),
    (bytes.length ≤ 3584 → ∃ t, perform (.load bytes) s = .next t ∧
      (∀ j (h : j < bytes.length), t.mem.read (0x200 + j) = bytes[j]) ∧
      (∀ a < 4096, a < 0x200 ∨ 0x200 + bytes.length ≤ a → t.mem.read a = s.mem.read a) ∧
      t.mem.glyphs = s.mem.glyphs ∧ { t with mem := s.mem } = s) ∧
    (3584 < bytes.length → perform (.load bytes) s = .fault .programTooLarge)

/-- After `RESET` and `LOAD` the first STEP runs the instruction whose bytes the image begins with (R213, R214, marked
there as derived; the boot order is log 5). -/
def Obligations.FirstStepRunsTheImage : Prop :=
  ∀ (s : State) (hi lo : Byte) (rest : List Byte) (i : Instr), rest.length ≤ 3582 → decodeWord (hi ++ lo) = some i →
    ∃ t, perform (.load (hi :: lo :: rest)) s.hostReset = .next t ∧ t.PC = 0x200 ∧ step t = exec i t

/-- `TICK`: each timer above 0 falls by one and a timer at 0 stays; `soundFlag` becomes 1 exactly on the tick that takes
`ST` from 1 to 0 and is never cleared; nothing else changes (R192). -/
def Obligations.TickCountsBothTimersDown : Prop :=
  ∀ s : State, ∃ t, perform .tick s = .next t ∧
    (0 < s.DT.toNat → t.DT.toNat + 1 = s.DT.toNat) ∧ (s.DT = 0 → t.DT = 0) ∧
    (0 < s.ST.toNat → t.ST.toNat + 1 = s.ST.toNat) ∧ (s.ST = 0 → t.ST = 0) ∧
    (s.ST.toNat = 1 → t.soundFlag = true) ∧ (s.ST.toNat ≠ 1 → t.soundFlag = s.soundFlag) ∧
    { t with DT := s.DT, ST := s.ST, soundFlag := s.soundFlag } = s

/-- `n` ticks take `n` from each timer, stopping at 0, so a value `N` reaches 0 after `N` ticks; `soundFlag` is 1 after
them exactly when it was before or `ST` was not 0 and has reached 0 (R162, R192). -/
def Obligations.TimersReachZeroAfterTheirValue : Prop :=
  ∀ (n : Nat) (s : State), (ticks n s).DT.toNat = s.DT.toNat - n ∧ (ticks n s).ST.toNat = s.ST.toNat - n ∧
    ((ticks n s).soundFlag = true ↔ s.soundFlag = true ∨ (0 < s.ST.toNat ∧ s.ST.toNat ≤ n))

/-- `KEY_DOWN(k)` sets the key; when the block awaits input it also writes `k` to `V[waitReg]`, moves `PC` to `NEXT` and
ends the wait, whether or not the key was down already; else nothing but the key changes (R193; decision D13,
log 9). -/
def Obligations.KeyDownCompletesThePendingWait : Prop :=
  ∀ (s : State) (k : Key), ∃ t, perform (.keyDown k) s = .next t ∧
    (∀ j : Key, t.keys[j] = if j = k then true else s.keys[j]) ∧
    (s.waiting = true → (t.reg s.waitReg).toNat = k.val ∧ SameRegsBut [s.waitReg] s t ∧ t.PC = nextPC s) ∧
    (s.waiting = false → SameRegsBut [] s t ∧ t.PC = s.PC ∧ t.waitReg = s.waitReg) ∧ t.waiting = false ∧ t.I = s.I ∧
    SameMemory s t ∧ SameStack s t ∧ SameTimers s t ∧ SameScreen s t ∧ t.soundFlag = s.soundFlag ∧ SameSupply s t

/-- `KEY_UP(k)`, `ACK_DRAW` and `ACK_SOUND` each clear their one bit and nothing else, and so never complete a key wait
(R194, R195, R196). -/
def Obligations.KeyUpAndAcknowledgeClearOneBit : Prop :=
  ∀ (s : State) (k : Key),
    (∃ t, perform (.keyUp k) s = .next t ∧ (∀ j : Key, t.keys[j] = if j = k then false else s.keys[j]) ∧
      { t with keys := s.keys } = s) ∧
    perform .ackDraw s = .next { s with drawFlag := false } ∧
    perform .ackSound s = .next { s with soundFlag := false }

/-- An error stays: after a STEP that raises an error, any schedule of STEPs, ticks, key events and acknowledgements
leaves a state whose STEP raises the same error with the same word (R186, R189, marked there as derived; the state is
unchanged by decision D18, log 4 and log 9). -/
def Obligations.ErrorsPersistUntilResetOrLoad : Prop :=
  ∀ (s : State) (e : Fault) (ops : List Operation), step s = .fault e → (∀ op ∈ ops, LeavesProgram op) →
    step (runOps ops s) = .fault e
end

