-- ==== Sys2Proof/Laws/Decode.lean ====
section
/-! SUPPORT. The fields of a word built in one of the formats of spec/30_encoding.md R62, and of a word fetched as two
bytes (R44). -/

namespace Sys2Proof

/-! ### Bits of a concatenation -/

theorem extract_low {v w : Nat} (hi : BitVec v) (lo : BitVec w) (start len : Nat) (h : start + len ≤ w) :
    (hi ++ lo).extractLsb' start len = lo.extractLsb' start len := BitVec.extractLsb'_append_eq_of_add_le h

theorem extract_high {v w : Nat} (hi : BitVec v) (lo : BitVec w) (start len : Nat) (h : w ≤ start) :
    (hi ++ lo).extractLsb' start len = hi.extractLsb' (start - w) len := BitVec.extractLsb'_append_eq_of_le h

/-! ### Format `A` -/

@[simp] theorem opOf_formatA (op : BitVec 4) (nnn : Addr12) : opOf (formatA op nnn) = op.toNat :=
  congrArg BitVec.toNat ((extract_high op nnn 12 4 (by decide)).trans BitVec.extractLsb'_eq_self)

@[simp] theorem nnnOf_formatA (op : BitVec 4) (nnn : Addr12) : nnnOf (formatA op nnn) = nnn :=
  (extract_low op nnn 0 12 (by decide)).trans BitVec.extractLsb'_eq_self

/-! ### Formats `XK` and `XS` -/

@[simp] theorem opOf_formatXK (op : BitVec 4) (x : Reg) (nn : Byte) : opOf (formatXK op x nn) = op.toNat :=
  congrArg BitVec.toNat ((extract_high (op ++ (BitVec.ofFin x : BitVec 4)) nn 12 4 (by decide)).trans
    ((extract_high op (BitVec.ofFin x : BitVec 4) 4 4 (by decide)).trans BitVec.extractLsb'_eq_self))

@[simp] theorem xOf_formatXK (op : BitVec 4) (x : Reg) (nn : Byte) : xOf (formatXK op x nn) = x :=
  congrArg BitVec.toFin ((extract_high (op ++ (BitVec.ofFin x : BitVec 4)) nn 8 4 (by decide)).trans
    ((extract_low op (BitVec.ofFin x : BitVec 4) 0 4 (by decide)).trans BitVec.extractLsb'_eq_self))

@[simp] theorem nnOf_formatXK (op : BitVec 4) (x : Reg) (nn : Byte) : nnOf (formatXK op x nn) = nn :=
  (extract_low (op ++ (BitVec.ofFin x : BitVec 4)) nn 0 8 (by decide)).trans BitVec.extractLsb'_eq_self

/-! ### Formats `XYN` and `XYS` -/

@[simp] theorem opOf_formatXYN (op : BitVec 4) (x y : Reg) (n : Fin 16) : opOf (formatXYN op x y n) = op.toNat :=
  congrArg BitVec.toNat ((extract_high (op ++ (BitVec.ofFin x : BitVec 4) ++ (BitVec.ofFin y : BitVec 4))
      (BitVec.ofFin n : BitVec 4) 12 4 (by decide)).trans
    ((extract_high (op ++ (BitVec.ofFin x : BitVec 4)) (BitVec.ofFin y : BitVec 4) 8 4 (by decide)).trans
      ((extract_high op (BitVec.ofFin x : BitVec 4) 4 4 (by decide)).trans BitVec.extractLsb'_eq_self)))

@[simp] theorem xOf_formatXYN (op : BitVec 4) (x y : Reg) (n : Fin 16) : xOf (formatXYN op x y n) = x :=
  congrArg BitVec.toFin ((extract_high (op ++ (BitVec.ofFin x : BitVec 4) ++ (BitVec.ofFin y : BitVec 4))
      (BitVec.ofFin n : BitVec 4) 8 4 (by decide)).trans
    ((extract_high (op ++ (BitVec.ofFin x : BitVec 4)) (BitVec.ofFin y : BitVec 4) 4 4 (by decide)).trans
      ((extract_low op (BitVec.ofFin x : BitVec 4) 0 4 (by decide)).trans BitVec.extractLsb'_eq_self)))

@[simp] theorem yOf_formatXYN (op : BitVec 4) (x y : Reg) (n : Fin 16) : yOf (formatXYN op x y n) = y :=
  congrArg BitVec.toFin ((extract_high (op ++ (BitVec.ofFin x : BitVec 4) ++ (BitVec.ofFin y : BitVec 4))
      (BitVec.ofFin n : BitVec 4) 4 4 (by decide)).trans
    ((extract_low (op ++ (BitVec.ofFin x : BitVec 4)) (BitVec.ofFin y : BitVec 4) 0 4 (by decide)).trans
      BitVec.extractLsb'_eq_self))

@[simp] theorem nOf_formatXYN (op : BitVec 4) (x y : Reg) (n : Fin 16) : nOf (formatXYN op x y n) = n :=
  congrArg BitVec.toFin ((extract_low (op ++ (BitVec.ofFin x : BitVec 4) ++ (BitVec.ofFin y : BitVec 4))
      (BitVec.ofFin n : BitVec 4) 0 4 (by decide)).trans BitVec.extractLsb'_eq_self)

/-! ### Every word is built from its fields -/

/-- Two neighbouring fields put side by side are the field that spans them. -/
theorem append_extract {u : Nat} (w : BitVec u) (start hi lo : Nat) :
    w.extractLsb' (start + lo) hi ++ w.extractLsb' start lo = w.extractLsb' start (hi + lo) := by
  ext k hk
  by_cases h : k < lo
  · simp [BitVec.getElem_append, h]
  · simp only [BitVec.getElem_append, h, dite_false, BitVec.getElem_extractLsb']
    congr 1
    omega

theorem formatA_fields (w : Word) : formatA (w.extractLsb' 12 4) (nnnOf w) = w :=
  (append_extract w 0 4 12).trans BitVec.extractLsb'_eq_self

theorem formatXK_fields (w : Word) : formatXK (w.extractLsb' 12 4) (xOf w) (nnOf w) = w :=
  (congrArg (fun h : BitVec 8 => h ++ nnOf w) (append_extract w 8 4 4)).trans
    ((append_extract w 0 8 8).trans BitVec.extractLsb'_eq_self)

theorem formatXYN_fields (w : Word) : formatXYN (w.extractLsb' 12 4) (xOf w) (yOf w) (nOf w) = w :=
  (congrArg (fun h : BitVec 8 => h ++ w.extractLsb' 4 4 ++ w.extractLsb' 0 4) (append_extract w 8 4 4)).trans
    ((congrArg (fun h : BitVec 12 => h ++ w.extractLsb' 0 4) (append_extract w 4 8 4)).trans
      ((append_extract w 0 12 4).trans BitVec.extractLsb'_eq_self))

/-- The decoder reads a word from the two bytes memory holds it in (R44). -/
@[simp] theorem highByte_wordOfBytes (high low : Byte) : (wordOfBytes high low).extractLsb' 8 8 = high := by
  rw [wordOfBytes, extract_high _ _ 8 8 (Nat.le_refl 8)]
  exact BitVec.extractLsb'_eq_self

@[simp] theorem lowByte_wordOfBytes (high low : Byte) : (wordOfBytes high low).extractLsb' 0 8 = low := by
  rw [wordOfBytes, extract_low _ _ 0 8 (Nat.le_refl 8)]
  exact BitVec.extractLsb'_eq_self

@[simp] theorem wordOfBytes_bytes (w : Word) : wordOfBytes (w.extractLsb' 8 8) (w.extractLsb' 0 8) = w :=
  (append_extract w 0 8 8).trans BitVec.extractLsb'_eq_self

/-! ### The masks of R65 on a word in a format -/

theorem and_append_split {v w : Nat} (a c : BitVec v) (b d : BitVec w) :
    (a ++ b) &&& (c ++ d) = (a &&& c) ++ (b &&& d) := by
  ext k hk
  by_cases h : k < w <;> simp [BitVec.getElem_append, h]

theorem nibble_and_ones (v : BitVec 4) : v &&& 0xF = v := BitVec.and_allOnes (x := v)
theorem byte_and_ones (v : BitVec 8) : v &&& 0xFF = v := BitVec.and_allOnes (x := v)

theorem formatA_mask (op : BitVec 4) (nnn : Addr12) : formatA op nnn &&& 0xF000 = formatA op 0 :=
  (and_append_split op 0xF nnn 0).trans (congrArg₂ (· ++ ·) (nibble_and_ones op) BitVec.and_zero)

theorem formatXK_mask (op : BitVec 4) (x : Reg) (nn : Byte) : formatXK op x nn &&& 0xF000 = formatXK op 0 0 :=
  (and_append_split (op ++ (BitVec.ofFin x : BitVec 4)) (0xF ++ (0 : BitVec 4)) nn 0).trans
    (congrArg₂ (· ++ ·) ((and_append_split op 0xF (BitVec.ofFin x : BitVec 4) 0).trans
      (congrArg₂ (· ++ ·) (nibble_and_ones op) BitVec.and_zero)) BitVec.and_zero)

theorem formatXS_mask (op : BitVec 4) (x : Reg) (nn : Byte) : formatXK op x nn &&& 0xF0FF = formatXK op 0 nn :=
  (and_append_split (op ++ (BitVec.ofFin x : BitVec 4)) (0xF ++ (0 : BitVec 4)) nn 0xFF).trans
    (congrArg₂ (· ++ ·) ((and_append_split op 0xF (BitVec.ofFin x : BitVec 4) 0).trans
      (congrArg₂ (· ++ ·) (nibble_and_ones op) BitVec.and_zero)) (byte_and_ones nn))

/-- `XYN` is `XK` with the second register and the nibble as its byte. -/
theorem formatXYN_eq (op : BitVec 4) (x y : Reg) (n : Fin 16) :
    formatXYN op x y n = formatXK op x ((BitVec.ofFin y : BitVec 4) ++ (BitVec.ofFin n : BitVec 4)) := by
  rw [← formatXK_fields (formatXYN op x y n)]
  have h1 : (formatXYN op x y n).extractLsb' 12 4 = op := BitVec.eq_of_toNat_eq (opOf_formatXYN op x y n)
  have h2 : nnOf (formatXYN op x y n) = (BitVec.ofFin y : BitVec 4) ++ (BitVec.ofFin n : BitVec 4) := by
    rw [← show (BitVec.ofFin (yOf (formatXYN op x y n)) : BitVec 4) ++
      (BitVec.ofFin (nOf (formatXYN op x y n)) : BitVec 4) = nnOf (formatXYN op x y n) from
        append_extract (formatXYN op x y n) 0 4 4, yOf_formatXYN, nOf_formatXYN]
  rw [h1, h2, xOf_formatXYN]

theorem formatXYN_mask (op : BitVec 4) (x y : Reg) (n : Fin 16) :
    formatXYN op x y n &&& 0xF000 = formatXYN op 0 0 0 := by
  rw [formatXYN_eq, formatXK_mask, formatXYN_eq]
  rfl

theorem formatXYS_mask (op : BitVec 4) (x y : Reg) (n : Fin 16) :
    formatXYN op x y n &&& 0xF00F = formatXYN op 0 0 n := by
  have h : ((BitVec.ofFin y : BitVec 4) ++ (BitVec.ofFin n : BitVec 4)) &&& ((0 : BitVec 4) ++ (0xF : BitVec 4)) =
      (0 : BitVec 4) ++ (BitVec.ofFin n : BitVec 4) :=
    (and_append_split (BitVec.ofFin y : BitVec 4) 0 (BitVec.ofFin n : BitVec 4) 0xF).trans
      (congrArg₂ (· ++ ·) BitVec.and_zero (nibble_and_ones _))
  rw [formatXYN_eq, formatXYN_eq]
  exact (and_append_split (op ++ (BitVec.ofFin x : BitVec 4)) (0xF ++ (0 : BitVec 4)) _
    ((0 : BitVec 4) ++ (0xF : BitVec 4))).trans (congrArg₂ (· ++ ·) ((and_append_split op 0xF (BitVec.ofFin x : BitVec 4) 0).trans
      (congrArg₂ (· ++ ·) (nibble_and_ones op) BitVec.and_zero)) h)

end Sys2Proof
end

