-- ==== Sys2Proof/Laws/State.lean ====
section
/-! SUPPORT. One lemma per field (and per reader: register, byte, pixel) per named update of State, so that no proof
unfolds a record update. -/

namespace Sys2Proof.Machine.State

variable (s : State)

/-! ### setMem -/

@[simp] theorem setMem_mem (m : Memory) : (s.setMem m).mem = m := rfl
@[simp] theorem setMem_V (m : Memory) : (s.setMem m).V = s.V := rfl
@[simp] theorem setMem_I (m : Memory) : (s.setMem m).I = s.I := rfl
@[simp] theorem setMem_PC (m : Memory) : (s.setMem m).PC = s.PC := rfl
@[simp] theorem setMem_stack (m : Memory) : (s.setMem m).stack = s.stack := rfl
@[simp] theorem setMem_SP (m : Memory) : (s.setMem m).SP = s.SP := rfl
@[simp] theorem setMem_DT (m : Memory) : (s.setMem m).DT = s.DT := rfl
@[simp] theorem setMem_ST (m : Memory) : (s.setMem m).ST = s.ST := rfl
@[simp] theorem setMem_keys (m : Memory) : (s.setMem m).keys = s.keys := rfl
@[simp] theorem setMem_display (m : Memory) : (s.setMem m).display = s.display := rfl
@[simp] theorem setMem_drawFlag (m : Memory) : (s.setMem m).drawFlag = s.drawFlag := rfl
@[simp] theorem setMem_soundFlag (m : Memory) : (s.setMem m).soundFlag = s.soundFlag := rfl
@[simp] theorem setMem_waiting (m : Memory) : (s.setMem m).waiting = s.waiting := rfl
@[simp] theorem setMem_waitReg (m : Memory) : (s.setMem m).waitReg = s.waitReg := rfl
@[simp] theorem setMem_rnd (m : Memory) : (s.setMem m).rnd = s.rnd := rfl
@[simp] theorem setMem_draws (m : Memory) : (s.setMem m).draws = s.draws := rfl
@[simp] theorem setMem_reg (m : Memory) (q : Reg) : (s.setMem m).reg q = s.reg q := rfl
@[simp] theorem setMem_pixel (m : Memory) (i : Fin 32) (j : Fin 64) : (s.setMem m).pixel i j = s.pixel i j := rfl

/-! ### setReg -/

@[simp] theorem setReg_mem (r : Reg) (v : Byte) : (s.setReg r v).mem = s.mem := rfl
@[simp] theorem setReg_V (r : Reg) (v : Byte) : (s.setReg r v).V = s.V.set r v := rfl
@[simp] theorem setReg_I (r : Reg) (v : Byte) : (s.setReg r v).I = s.I := rfl
@[simp] theorem setReg_PC (r : Reg) (v : Byte) : (s.setReg r v).PC = s.PC := rfl
@[simp] theorem setReg_stack (r : Reg) (v : Byte) : (s.setReg r v).stack = s.stack := rfl
@[simp] theorem setReg_SP (r : Reg) (v : Byte) : (s.setReg r v).SP = s.SP := rfl
@[simp] theorem setReg_DT (r : Reg) (v : Byte) : (s.setReg r v).DT = s.DT := rfl
@[simp] theorem setReg_ST (r : Reg) (v : Byte) : (s.setReg r v).ST = s.ST := rfl
@[simp] theorem setReg_keys (r : Reg) (v : Byte) : (s.setReg r v).keys = s.keys := rfl
@[simp] theorem setReg_display (r : Reg) (v : Byte) : (s.setReg r v).display = s.display := rfl
@[simp] theorem setReg_drawFlag (r : Reg) (v : Byte) : (s.setReg r v).drawFlag = s.drawFlag := rfl
@[simp] theorem setReg_soundFlag (r : Reg) (v : Byte) : (s.setReg r v).soundFlag = s.soundFlag := rfl
@[simp] theorem setReg_waiting (r : Reg) (v : Byte) : (s.setReg r v).waiting = s.waiting := rfl
@[simp] theorem setReg_waitReg (r : Reg) (v : Byte) : (s.setReg r v).waitReg = s.waitReg := rfl
@[simp] theorem setReg_rnd (r : Reg) (v : Byte) : (s.setReg r v).rnd = s.rnd := rfl
@[simp] theorem setReg_draws (r : Reg) (v : Byte) : (s.setReg r v).draws = s.draws := rfl
@[simp] theorem setReg_readMem (r : Reg) (v : Byte) (a : Word) : (s.setReg r v).readMem a = s.readMem a := rfl
@[simp] theorem setReg_pixel (r : Reg) (v : Byte) (i : Fin 32) (j : Fin 64) : (s.setReg r v).pixel i j = s.pixel i j := rfl

/-! ### setV -/

@[simp] theorem setV_mem (v : Vector Byte 16) : (s.setV v).mem = s.mem := rfl
@[simp] theorem setV_V (v : Vector Byte 16) : (s.setV v).V = v := rfl
@[simp] theorem setV_I (v : Vector Byte 16) : (s.setV v).I = s.I := rfl
@[simp] theorem setV_PC (v : Vector Byte 16) : (s.setV v).PC = s.PC := rfl
@[simp] theorem setV_stack (v : Vector Byte 16) : (s.setV v).stack = s.stack := rfl
@[simp] theorem setV_SP (v : Vector Byte 16) : (s.setV v).SP = s.SP := rfl
@[simp] theorem setV_DT (v : Vector Byte 16) : (s.setV v).DT = s.DT := rfl
@[simp] theorem setV_ST (v : Vector Byte 16) : (s.setV v).ST = s.ST := rfl
@[simp] theorem setV_keys (v : Vector Byte 16) : (s.setV v).keys = s.keys := rfl
@[simp] theorem setV_display (v : Vector Byte 16) : (s.setV v).display = s.display := rfl
@[simp] theorem setV_drawFlag (v : Vector Byte 16) : (s.setV v).drawFlag = s.drawFlag := rfl
@[simp] theorem setV_soundFlag (v : Vector Byte 16) : (s.setV v).soundFlag = s.soundFlag := rfl
@[simp] theorem setV_waiting (v : Vector Byte 16) : (s.setV v).waiting = s.waiting := rfl
@[simp] theorem setV_waitReg (v : Vector Byte 16) : (s.setV v).waitReg = s.waitReg := rfl
@[simp] theorem setV_rnd (v : Vector Byte 16) : (s.setV v).rnd = s.rnd := rfl
@[simp] theorem setV_draws (v : Vector Byte 16) : (s.setV v).draws = s.draws := rfl
@[simp] theorem setV_readMem (v : Vector Byte 16) (a : Word) : (s.setV v).readMem a = s.readMem a := rfl
@[simp] theorem setV_pixel (v : Vector Byte 16) (i : Fin 32) (j : Fin 64) : (s.setV v).pixel i j = s.pixel i j := rfl

/-! ### setI -/

@[simp] theorem setI_mem (v : Word) : (s.setI v).mem = s.mem := rfl
@[simp] theorem setI_V (v : Word) : (s.setI v).V = s.V := rfl
@[simp] theorem setI_I (v : Word) : (s.setI v).I = v := rfl
@[simp] theorem setI_PC (v : Word) : (s.setI v).PC = s.PC := rfl
@[simp] theorem setI_stack (v : Word) : (s.setI v).stack = s.stack := rfl
@[simp] theorem setI_SP (v : Word) : (s.setI v).SP = s.SP := rfl
@[simp] theorem setI_DT (v : Word) : (s.setI v).DT = s.DT := rfl
@[simp] theorem setI_ST (v : Word) : (s.setI v).ST = s.ST := rfl
@[simp] theorem setI_keys (v : Word) : (s.setI v).keys = s.keys := rfl
@[simp] theorem setI_display (v : Word) : (s.setI v).display = s.display := rfl
@[simp] theorem setI_drawFlag (v : Word) : (s.setI v).drawFlag = s.drawFlag := rfl
@[simp] theorem setI_soundFlag (v : Word) : (s.setI v).soundFlag = s.soundFlag := rfl
@[simp] theorem setI_waiting (v : Word) : (s.setI v).waiting = s.waiting := rfl
@[simp] theorem setI_waitReg (v : Word) : (s.setI v).waitReg = s.waitReg := rfl
@[simp] theorem setI_rnd (v : Word) : (s.setI v).rnd = s.rnd := rfl
@[simp] theorem setI_draws (v : Word) : (s.setI v).draws = s.draws := rfl
@[simp] theorem setI_reg (v : Word) (q : Reg) : (s.setI v).reg q = s.reg q := rfl
@[simp] theorem setI_readMem (v : Word) (a : Word) : (s.setI v).readMem a = s.readMem a := rfl
@[simp] theorem setI_pixel (v : Word) (i : Fin 32) (j : Fin 64) : (s.setI v).pixel i j = s.pixel i j := rfl

/-! ### setPC -/

@[simp] theorem setPC_mem (v : Word) : (s.setPC v).mem = s.mem := rfl
@[simp] theorem setPC_V (v : Word) : (s.setPC v).V = s.V := rfl
@[simp] theorem setPC_I (v : Word) : (s.setPC v).I = s.I := rfl
@[simp] theorem setPC_PC (v : Word) : (s.setPC v).PC = v := rfl
@[simp] theorem setPC_stack (v : Word) : (s.setPC v).stack = s.stack := rfl
@[simp] theorem setPC_SP (v : Word) : (s.setPC v).SP = s.SP := rfl
@[simp] theorem setPC_DT (v : Word) : (s.setPC v).DT = s.DT := rfl
@[simp] theorem setPC_ST (v : Word) : (s.setPC v).ST = s.ST := rfl
@[simp] theorem setPC_keys (v : Word) : (s.setPC v).keys = s.keys := rfl
@[simp] theorem setPC_display (v : Word) : (s.setPC v).display = s.display := rfl
@[simp] theorem setPC_drawFlag (v : Word) : (s.setPC v).drawFlag = s.drawFlag := rfl
@[simp] theorem setPC_soundFlag (v : Word) : (s.setPC v).soundFlag = s.soundFlag := rfl
@[simp] theorem setPC_waiting (v : Word) : (s.setPC v).waiting = s.waiting := rfl
@[simp] theorem setPC_waitReg (v : Word) : (s.setPC v).waitReg = s.waitReg := rfl
@[simp] theorem setPC_rnd (v : Word) : (s.setPC v).rnd = s.rnd := rfl
@[simp] theorem setPC_draws (v : Word) : (s.setPC v).draws = s.draws := rfl
@[simp] theorem setPC_reg (v : Word) (q : Reg) : (s.setPC v).reg q = s.reg q := rfl
@[simp] theorem setPC_readMem (v : Word) (a : Word) : (s.setPC v).readMem a = s.readMem a := rfl
@[simp] theorem setPC_pixel (v : Word) (i : Fin 32) (j : Fin 64) : (s.setPC v).pixel i j = s.pixel i j := rfl

/-! ### setDT -/

@[simp] theorem setDT_mem (v : Byte) : (s.setDT v).mem = s.mem := rfl
@[simp] theorem setDT_V (v : Byte) : (s.setDT v).V = s.V := rfl
@[simp] theorem setDT_I (v : Byte) : (s.setDT v).I = s.I := rfl
@[simp] theorem setDT_PC (v : Byte) : (s.setDT v).PC = s.PC := rfl
@[simp] theorem setDT_stack (v : Byte) : (s.setDT v).stack = s.stack := rfl
@[simp] theorem setDT_SP (v : Byte) : (s.setDT v).SP = s.SP := rfl
@[simp] theorem setDT_DT (v : Byte) : (s.setDT v).DT = v := rfl
@[simp] theorem setDT_ST (v : Byte) : (s.setDT v).ST = s.ST := rfl
@[simp] theorem setDT_keys (v : Byte) : (s.setDT v).keys = s.keys := rfl
@[simp] theorem setDT_display (v : Byte) : (s.setDT v).display = s.display := rfl
@[simp] theorem setDT_drawFlag (v : Byte) : (s.setDT v).drawFlag = s.drawFlag := rfl
@[simp] theorem setDT_soundFlag (v : Byte) : (s.setDT v).soundFlag = s.soundFlag := rfl
@[simp] theorem setDT_waiting (v : Byte) : (s.setDT v).waiting = s.waiting := rfl
@[simp] theorem setDT_waitReg (v : Byte) : (s.setDT v).waitReg = s.waitReg := rfl
@[simp] theorem setDT_rnd (v : Byte) : (s.setDT v).rnd = s.rnd := rfl
@[simp] theorem setDT_draws (v : Byte) : (s.setDT v).draws = s.draws := rfl
@[simp] theorem setDT_reg (v : Byte) (q : Reg) : (s.setDT v).reg q = s.reg q := rfl
@[simp] theorem setDT_readMem (v : Byte) (a : Word) : (s.setDT v).readMem a = s.readMem a := rfl
@[simp] theorem setDT_pixel (v : Byte) (i : Fin 32) (j : Fin 64) : (s.setDT v).pixel i j = s.pixel i j := rfl

/-! ### setST -/

@[simp] theorem setST_mem (v : Byte) : (s.setST v).mem = s.mem := rfl
@[simp] theorem setST_V (v : Byte) : (s.setST v).V = s.V := rfl
@[simp] theorem setST_I (v : Byte) : (s.setST v).I = s.I := rfl
@[simp] theorem setST_PC (v : Byte) : (s.setST v).PC = s.PC := rfl
@[simp] theorem setST_stack (v : Byte) : (s.setST v).stack = s.stack := rfl
@[simp] theorem setST_SP (v : Byte) : (s.setST v).SP = s.SP := rfl
@[simp] theorem setST_DT (v : Byte) : (s.setST v).DT = s.DT := rfl
@[simp] theorem setST_ST (v : Byte) : (s.setST v).ST = v := rfl
@[simp] theorem setST_keys (v : Byte) : (s.setST v).keys = s.keys := rfl
@[simp] theorem setST_display (v : Byte) : (s.setST v).display = s.display := rfl
@[simp] theorem setST_drawFlag (v : Byte) : (s.setST v).drawFlag = s.drawFlag := rfl
@[simp] theorem setST_soundFlag (v : Byte) : (s.setST v).soundFlag = s.soundFlag := rfl
@[simp] theorem setST_waiting (v : Byte) : (s.setST v).waiting = s.waiting := rfl
@[simp] theorem setST_waitReg (v : Byte) : (s.setST v).waitReg = s.waitReg := rfl
@[simp] theorem setST_rnd (v : Byte) : (s.setST v).rnd = s.rnd := rfl
@[simp] theorem setST_draws (v : Byte) : (s.setST v).draws = s.draws := rfl
@[simp] theorem setST_reg (v : Byte) (q : Reg) : (s.setST v).reg q = s.reg q := rfl
@[simp] theorem setST_readMem (v : Byte) (a : Word) : (s.setST v).readMem a = s.readMem a := rfl
@[simp] theorem setST_pixel (v : Byte) (i : Fin 32) (j : Fin 64) : (s.setST v).pixel i j = s.pixel i j := rfl

/-! ### setKey -/

@[simp] theorem setKey_mem (k : Key) (v : Bool) : (s.setKey k v).mem = s.mem := rfl
@[simp] theorem setKey_V (k : Key) (v : Bool) : (s.setKey k v).V = s.V := rfl
@[simp] theorem setKey_I (k : Key) (v : Bool) : (s.setKey k v).I = s.I := rfl
@[simp] theorem setKey_PC (k : Key) (v : Bool) : (s.setKey k v).PC = s.PC := rfl
@[simp] theorem setKey_stack (k : Key) (v : Bool) : (s.setKey k v).stack = s.stack := rfl
@[simp] theorem setKey_SP (k : Key) (v : Bool) : (s.setKey k v).SP = s.SP := rfl
@[simp] theorem setKey_DT (k : Key) (v : Bool) : (s.setKey k v).DT = s.DT := rfl
@[simp] theorem setKey_ST (k : Key) (v : Bool) : (s.setKey k v).ST = s.ST := rfl
@[simp] theorem setKey_keys (k : Key) (v : Bool) : (s.setKey k v).keys = s.keys.set k v := rfl
@[simp] theorem setKey_display (k : Key) (v : Bool) : (s.setKey k v).display = s.display := rfl
@[simp] theorem setKey_drawFlag (k : Key) (v : Bool) : (s.setKey k v).drawFlag = s.drawFlag := rfl
@[simp] theorem setKey_soundFlag (k : Key) (v : Bool) : (s.setKey k v).soundFlag = s.soundFlag := rfl
@[simp] theorem setKey_waiting (k : Key) (v : Bool) : (s.setKey k v).waiting = s.waiting := rfl
@[simp] theorem setKey_waitReg (k : Key) (v : Bool) : (s.setKey k v).waitReg = s.waitReg := rfl
@[simp] theorem setKey_rnd (k : Key) (v : Bool) : (s.setKey k v).rnd = s.rnd := rfl
@[simp] theorem setKey_draws (k : Key) (v : Bool) : (s.setKey k v).draws = s.draws := rfl
@[simp] theorem setKey_reg (k : Key) (v : Bool) (q : Reg) : (s.setKey k v).reg q = s.reg q := rfl
@[simp] theorem setKey_readMem (k : Key) (v : Bool) (a : Word) : (s.setKey k v).readMem a = s.readMem a := rfl
@[simp] theorem setKey_pixel (k : Key) (v : Bool) (i : Fin 32) (j : Fin 64) : (s.setKey k v).pixel i j = s.pixel i j := rfl

/-! ### setDisplay -/

@[simp] theorem setDisplay_mem (d : Display) : (s.setDisplay d).mem = s.mem := rfl
@[simp] theorem setDisplay_V (d : Display) : (s.setDisplay d).V = s.V := rfl
@[simp] theorem setDisplay_I (d : Display) : (s.setDisplay d).I = s.I := rfl
@[simp] theorem setDisplay_PC (d : Display) : (s.setDisplay d).PC = s.PC := rfl
@[simp] theorem setDisplay_stack (d : Display) : (s.setDisplay d).stack = s.stack := rfl
@[simp] theorem setDisplay_SP (d : Display) : (s.setDisplay d).SP = s.SP := rfl
@[simp] theorem setDisplay_DT (d : Display) : (s.setDisplay d).DT = s.DT := rfl
@[simp] theorem setDisplay_ST (d : Display) : (s.setDisplay d).ST = s.ST := rfl
@[simp] theorem setDisplay_keys (d : Display) : (s.setDisplay d).keys = s.keys := rfl
@[simp] theorem setDisplay_display (d : Display) : (s.setDisplay d).display = d := rfl
@[simp] theorem setDisplay_drawFlag (d : Display) : (s.setDisplay d).drawFlag = s.drawFlag := rfl
@[simp] theorem setDisplay_soundFlag (d : Display) : (s.setDisplay d).soundFlag = s.soundFlag := rfl
@[simp] theorem setDisplay_waiting (d : Display) : (s.setDisplay d).waiting = s.waiting := rfl
@[simp] theorem setDisplay_waitReg (d : Display) : (s.setDisplay d).waitReg = s.waitReg := rfl
@[simp] theorem setDisplay_rnd (d : Display) : (s.setDisplay d).rnd = s.rnd := rfl
@[simp] theorem setDisplay_draws (d : Display) : (s.setDisplay d).draws = s.draws := rfl
@[simp] theorem setDisplay_reg (d : Display) (q : Reg) : (s.setDisplay d).reg q = s.reg q := rfl
@[simp] theorem setDisplay_readMem (d : Display) (a : Word) : (s.setDisplay d).readMem a = s.readMem a := rfl

/-! ### setDrawFlag -/

@[simp] theorem setDrawFlag_mem (v : Bool) : (s.setDrawFlag v).mem = s.mem := rfl
@[simp] theorem setDrawFlag_V (v : Bool) : (s.setDrawFlag v).V = s.V := rfl
@[simp] theorem setDrawFlag_I (v : Bool) : (s.setDrawFlag v).I = s.I := rfl
@[simp] theorem setDrawFlag_PC (v : Bool) : (s.setDrawFlag v).PC = s.PC := rfl
@[simp] theorem setDrawFlag_stack (v : Bool) : (s.setDrawFlag v).stack = s.stack := rfl
@[simp] theorem setDrawFlag_SP (v : Bool) : (s.setDrawFlag v).SP = s.SP := rfl
@[simp] theorem setDrawFlag_DT (v : Bool) : (s.setDrawFlag v).DT = s.DT := rfl
@[simp] theorem setDrawFlag_ST (v : Bool) : (s.setDrawFlag v).ST = s.ST := rfl
@[simp] theorem setDrawFlag_keys (v : Bool) : (s.setDrawFlag v).keys = s.keys := rfl
@[simp] theorem setDrawFlag_display (v : Bool) : (s.setDrawFlag v).display = s.display := rfl
@[simp] theorem setDrawFlag_drawFlag (v : Bool) : (s.setDrawFlag v).drawFlag = v := rfl
@[simp] theorem setDrawFlag_soundFlag (v : Bool) : (s.setDrawFlag v).soundFlag = s.soundFlag := rfl
@[simp] theorem setDrawFlag_waiting (v : Bool) : (s.setDrawFlag v).waiting = s.waiting := rfl
@[simp] theorem setDrawFlag_waitReg (v : Bool) : (s.setDrawFlag v).waitReg = s.waitReg := rfl
@[simp] theorem setDrawFlag_rnd (v : Bool) : (s.setDrawFlag v).rnd = s.rnd := rfl
@[simp] theorem setDrawFlag_draws (v : Bool) : (s.setDrawFlag v).draws = s.draws := rfl
@[simp] theorem setDrawFlag_reg (v : Bool) (q : Reg) : (s.setDrawFlag v).reg q = s.reg q := rfl
@[simp] theorem setDrawFlag_readMem (v : Bool) (a : Word) : (s.setDrawFlag v).readMem a = s.readMem a := rfl
@[simp] theorem setDrawFlag_pixel (v : Bool) (i : Fin 32) (j : Fin 64) : (s.setDrawFlag v).pixel i j = s.pixel i j := rfl

/-! ### setSoundFlag -/

@[simp] theorem setSoundFlag_mem (v : Bool) : (s.setSoundFlag v).mem = s.mem := rfl
@[simp] theorem setSoundFlag_V (v : Bool) : (s.setSoundFlag v).V = s.V := rfl
@[simp] theorem setSoundFlag_I (v : Bool) : (s.setSoundFlag v).I = s.I := rfl
@[simp] theorem setSoundFlag_PC (v : Bool) : (s.setSoundFlag v).PC = s.PC := rfl
@[simp] theorem setSoundFlag_stack (v : Bool) : (s.setSoundFlag v).stack = s.stack := rfl
@[simp] theorem setSoundFlag_SP (v : Bool) : (s.setSoundFlag v).SP = s.SP := rfl
@[simp] theorem setSoundFlag_DT (v : Bool) : (s.setSoundFlag v).DT = s.DT := rfl
@[simp] theorem setSoundFlag_ST (v : Bool) : (s.setSoundFlag v).ST = s.ST := rfl
@[simp] theorem setSoundFlag_keys (v : Bool) : (s.setSoundFlag v).keys = s.keys := rfl
@[simp] theorem setSoundFlag_display (v : Bool) : (s.setSoundFlag v).display = s.display := rfl
@[simp] theorem setSoundFlag_drawFlag (v : Bool) : (s.setSoundFlag v).drawFlag = s.drawFlag := rfl
@[simp] theorem setSoundFlag_soundFlag (v : Bool) : (s.setSoundFlag v).soundFlag = v := rfl
@[simp] theorem setSoundFlag_waiting (v : Bool) : (s.setSoundFlag v).waiting = s.waiting := rfl
@[simp] theorem setSoundFlag_waitReg (v : Bool) : (s.setSoundFlag v).waitReg = s.waitReg := rfl
@[simp] theorem setSoundFlag_rnd (v : Bool) : (s.setSoundFlag v).rnd = s.rnd := rfl
@[simp] theorem setSoundFlag_draws (v : Bool) : (s.setSoundFlag v).draws = s.draws := rfl
@[simp] theorem setSoundFlag_reg (v : Bool) (q : Reg) : (s.setSoundFlag v).reg q = s.reg q := rfl
@[simp] theorem setSoundFlag_readMem (v : Bool) (a : Word) : (s.setSoundFlag v).readMem a = s.readMem a := rfl
@[simp] theorem setSoundFlag_pixel (v : Bool) (i : Fin 32) (j : Fin 64) : (s.setSoundFlag v).pixel i j = s.pixel i j := rfl

/-! ### setWait -/

@[simp] theorem setWait_mem (v : Bool) (r : Reg) : (s.setWait v r).mem = s.mem := rfl
@[simp] theorem setWait_V (v : Bool) (r : Reg) : (s.setWait v r).V = s.V := rfl
@[simp] theorem setWait_I (v : Bool) (r : Reg) : (s.setWait v r).I = s.I := rfl
@[simp] theorem setWait_PC (v : Bool) (r : Reg) : (s.setWait v r).PC = s.PC := rfl
@[simp] theorem setWait_stack (v : Bool) (r : Reg) : (s.setWait v r).stack = s.stack := rfl
@[simp] theorem setWait_SP (v : Bool) (r : Reg) : (s.setWait v r).SP = s.SP := rfl
@[simp] theorem setWait_DT (v : Bool) (r : Reg) : (s.setWait v r).DT = s.DT := rfl
@[simp] theorem setWait_ST (v : Bool) (r : Reg) : (s.setWait v r).ST = s.ST := rfl
@[simp] theorem setWait_keys (v : Bool) (r : Reg) : (s.setWait v r).keys = s.keys := rfl
@[simp] theorem setWait_display (v : Bool) (r : Reg) : (s.setWait v r).display = s.display := rfl
@[simp] theorem setWait_drawFlag (v : Bool) (r : Reg) : (s.setWait v r).drawFlag = s.drawFlag := rfl
@[simp] theorem setWait_soundFlag (v : Bool) (r : Reg) : (s.setWait v r).soundFlag = s.soundFlag := rfl
@[simp] theorem setWait_waiting (v : Bool) (r : Reg) : (s.setWait v r).waiting = v := rfl
@[simp] theorem setWait_waitReg (v : Bool) (r : Reg) : (s.setWait v r).waitReg = r := rfl
@[simp] theorem setWait_rnd (v : Bool) (r : Reg) : (s.setWait v r).rnd = s.rnd := rfl
@[simp] theorem setWait_draws (v : Bool) (r : Reg) : (s.setWait v r).draws = s.draws := rfl
@[simp] theorem setWait_reg (v : Bool) (r : Reg) (q : Reg) : (s.setWait v r).reg q = s.reg q := rfl
@[simp] theorem setWait_readMem (v : Bool) (r : Reg) (a : Word) : (s.setWait v r).readMem a = s.readMem a := rfl
@[simp] theorem setWait_pixel (v : Bool) (r : Reg) (i : Fin 32) (j : Fin 64) : (s.setWait v r).pixel i j = s.pixel i j := rfl

/-! ### setStack -/

@[simp] theorem setStack_mem (st : Vector Word 16) (sp : Fin 17) : (s.setStack st sp).mem = s.mem := rfl
@[simp] theorem setStack_V (st : Vector Word 16) (sp : Fin 17) : (s.setStack st sp).V = s.V := rfl
@[simp] theorem setStack_I (st : Vector Word 16) (sp : Fin 17) : (s.setStack st sp).I = s.I := rfl
@[simp] theorem setStack_PC (st : Vector Word 16) (sp : Fin 17) : (s.setStack st sp).PC = s.PC := rfl
@[simp] theorem setStack_stack (st : Vector Word 16) (sp : Fin 17) : (s.setStack st sp).stack = st := rfl
@[simp] theorem setStack_SP (st : Vector Word 16) (sp : Fin 17) : (s.setStack st sp).SP = sp := rfl
@[simp] theorem setStack_DT (st : Vector Word 16) (sp : Fin 17) : (s.setStack st sp).DT = s.DT := rfl
@[simp] theorem setStack_ST (st : Vector Word 16) (sp : Fin 17) : (s.setStack st sp).ST = s.ST := rfl
@[simp] theorem setStack_keys (st : Vector Word 16) (sp : Fin 17) : (s.setStack st sp).keys = s.keys := rfl
@[simp] theorem setStack_display (st : Vector Word 16) (sp : Fin 17) : (s.setStack st sp).display = s.display := rfl
@[simp] theorem setStack_drawFlag (st : Vector Word 16) (sp : Fin 17) : (s.setStack st sp).drawFlag = s.drawFlag := rfl
@[simp] theorem setStack_soundFlag (st : Vector Word 16) (sp : Fin 17) : (s.setStack st sp).soundFlag = s.soundFlag := rfl
@[simp] theorem setStack_waiting (st : Vector Word 16) (sp : Fin 17) : (s.setStack st sp).waiting = s.waiting := rfl
@[simp] theorem setStack_waitReg (st : Vector Word 16) (sp : Fin 17) : (s.setStack st sp).waitReg = s.waitReg := rfl
@[simp] theorem setStack_rnd (st : Vector Word 16) (sp : Fin 17) : (s.setStack st sp).rnd = s.rnd := rfl
@[simp] theorem setStack_draws (st : Vector Word 16) (sp : Fin 17) : (s.setStack st sp).draws = s.draws := rfl
@[simp] theorem setStack_reg (st : Vector Word 16) (sp : Fin 17) (q : Reg) : (s.setStack st sp).reg q = s.reg q := rfl
@[simp] theorem setStack_readMem (st : Vector Word 16) (sp : Fin 17) (a : Word) : (s.setStack st sp).readMem a = s.readMem a := rfl
@[simp] theorem setStack_pixel (st : Vector Word 16) (sp : Fin 17) (i : Fin 32) (j : Fin 64) : (s.setStack st sp).pixel i j = s.pixel i j := rfl

/-! ### freshRnd -/

@[simp] theorem freshRnd_mem : s.freshRnd.mem = s.mem := rfl
@[simp] theorem freshRnd_V : s.freshRnd.V = s.V := rfl
@[simp] theorem freshRnd_I : s.freshRnd.I = s.I := rfl
@[simp] theorem freshRnd_PC : s.freshRnd.PC = s.PC := rfl
@[simp] theorem freshRnd_stack : s.freshRnd.stack = s.stack := rfl
@[simp] theorem freshRnd_SP : s.freshRnd.SP = s.SP := rfl
@[simp] theorem freshRnd_DT : s.freshRnd.DT = s.DT := rfl
@[simp] theorem freshRnd_ST : s.freshRnd.ST = s.ST := rfl
@[simp] theorem freshRnd_keys : s.freshRnd.keys = s.keys := rfl
@[simp] theorem freshRnd_display : s.freshRnd.display = s.display := rfl
@[simp] theorem freshRnd_drawFlag : s.freshRnd.drawFlag = s.drawFlag := rfl
@[simp] theorem freshRnd_soundFlag : s.freshRnd.soundFlag = s.soundFlag := rfl
@[simp] theorem freshRnd_waiting : s.freshRnd.waiting = s.waiting := rfl
@[simp] theorem freshRnd_waitReg : s.freshRnd.waitReg = s.waitReg := rfl
@[simp] theorem freshRnd_rnd : s.freshRnd.rnd = Config.rndDraw s.draws := rfl
@[simp] theorem freshRnd_draws : s.freshRnd.draws = s.draws + 1 := rfl
@[simp] theorem freshRnd_reg (q : Reg) : s.freshRnd.reg q = s.reg q := rfl
@[simp] theorem freshRnd_readMem (a : Word) : s.freshRnd.readMem a = s.readMem a := rfl
@[simp] theorem freshRnd_pixel (i : Fin 32) (j : Fin 64) : s.freshRnd.pixel i j = s.pixel i j := rfl

/-! ### withRnd -/

@[simp] theorem withRnd_mem (r : Byte) : (s.withRnd r).mem = s.mem := rfl
@[simp] theorem withRnd_V (r : Byte) : (s.withRnd r).V = s.V := rfl
@[simp] theorem withRnd_I (r : Byte) : (s.withRnd r).I = s.I := rfl
@[simp] theorem withRnd_PC (r : Byte) : (s.withRnd r).PC = s.PC := rfl
@[simp] theorem withRnd_stack (r : Byte) : (s.withRnd r).stack = s.stack := rfl
@[simp] theorem withRnd_SP (r : Byte) : (s.withRnd r).SP = s.SP := rfl
@[simp] theorem withRnd_DT (r : Byte) : (s.withRnd r).DT = s.DT := rfl
@[simp] theorem withRnd_ST (r : Byte) : (s.withRnd r).ST = s.ST := rfl
@[simp] theorem withRnd_keys (r : Byte) : (s.withRnd r).keys = s.keys := rfl
@[simp] theorem withRnd_display (r : Byte) : (s.withRnd r).display = s.display := rfl
@[simp] theorem withRnd_drawFlag (r : Byte) : (s.withRnd r).drawFlag = s.drawFlag := rfl
@[simp] theorem withRnd_soundFlag (r : Byte) : (s.withRnd r).soundFlag = s.soundFlag := rfl
@[simp] theorem withRnd_waiting (r : Byte) : (s.withRnd r).waiting = s.waiting := rfl
@[simp] theorem withRnd_waitReg (r : Byte) : (s.withRnd r).waitReg = s.waitReg := rfl
@[simp] theorem withRnd_rnd (r : Byte) : (s.withRnd r).rnd = r := rfl
@[simp] theorem withRnd_draws (r : Byte) : (s.withRnd r).draws = s.draws := rfl
@[simp] theorem withRnd_reg (r : Byte) (q : Reg) : (s.withRnd r).reg q = s.reg q := rfl
@[simp] theorem withRnd_readMem (r : Byte) (a : Word) : (s.withRnd r).readMem a = s.readMem a := rfl
@[simp] theorem withRnd_pixel (r : Byte) (i : Fin 32) (j : Fin 64) : (s.withRnd r).pixel i j = s.pixel i j := rfl

end Sys2Proof.Machine.State
end

