-- ==== Sys2Proof/Laws/Memory.lean ====
section
/-! SUPPORT. Memory: a read after a write, the frame of a write, and that every write keeps the canonical form
(spec/20_memory.md R40, R43). -/

namespace Sys2Proof.Machine

variable {g : GlyphTable} {a a' lo : Nat} {b : Byte} {cells : List Host.Cell}

/-! ### Lists of cells -/

theorem readCells_consCell (g : GlyphTable) (a a' : Nat) (b : Byte) (cells : List Host.Cell)
    (h : readCells g a cells = resetByte g a) :
    readCells g a' (consCell g a b cells) = if a' = a then b else readCells g a' cells := by
  unfold consCell
  by_cases hb : b = resetByte g a
  · by_cases ha : a' = a <;> simp_all
  · by_cases ha : a' = a
    · simp_all [readCells]
    · simp [hb, ha, readCells, Ne.symm ha]

theorem readCells_filter_same (g : GlyphTable) (a : Nat) (cells : List Host.Cell) :
    readCells g a (cells.filter fun c => c.1 != a) = resetByte g a := by
  induction cells with
  | nil => rfl
  | cons c rest ih =>
    by_cases h : c.1 = a
    · simpa [h] using ih
    · simp [h, readCells, ih]

theorem readCells_filter_ne (g : GlyphTable) (h : a' ≠ a) (cells : List Host.Cell) :
    readCells g a' (cells.filter fun c => c.1 != a) = readCells g a' cells := by
  induction cells with
  | nil => rfl
  | cons c rest ih =>
    by_cases hc : c.1 = a
    · simp [hc, readCells, Ne.symm h, ih]
    · simp [hc, readCells, ih]

theorem readCells_insertCell (g : GlyphTable) (a a' : Nat) (b : Byte) (cells : List Host.Cell)
    (h : ∀ c ∈ cells, c.1 ≠ a) :
    readCells g a' (insertCell g a b cells) = if a' = a then b else readCells g a' cells := by
  have free : ∀ l : List Host.Cell, (∀ c ∈ l, c.1 ≠ a) → readCells g a l = resetByte g a := by
    intro l hl
    induction l with
    | nil => rfl
    | cons c rest ih => simp_all [readCells]
  induction cells with
  | nil => exact readCells_consCell g a a' b [] rfl
  | cons c rest ih =>
    simp only [insertCell]
    split
    · exact readCells_consCell g a a' b _ (free _ h)
    · have hc : c.1 ≠ a := h c (by simp)
      by_cases ha : c.1 = a'
      · simp [readCells, ha, ha ▸ hc]
      · simp [readCells, ha, ih fun d hd => h d (by simp [hd])]

/-- A read after a write to one cell. -/
theorem readCells_writeCells (g : GlyphTable) (a a' : Nat) (b : Byte) (cells : List Host.Cell) :
    readCells g a' (writeCells g a b cells) = if a' = a then b else readCells g a' cells := by
  rw [writeCells, readCells_insertCell g a a' b _ (by simp)]
  split
  · rfl
  · exact readCells_filter_ne g ‹_› cells

theorem wfCells_mono {lo' : Nat} (hl : lo' ≤ lo) (h : wfCells g lo cells = true) : wfCells g lo' cells = true := by
  cases cells with
  | nil => rfl
  | cons c rest => simp_all [wfCells]; omega

theorem wfCells_consCell (h : wfCells g (a + 1) cells = true) (hl : lo ≤ a) (ha : a < 4096) :
    wfCells g lo (consCell g a b cells) = true := by
  unfold consCell
  split
  · exact wfCells_mono (by omega) h
  · simp_all [wfCells]

theorem wfCells_filter (p : Host.Cell → Bool) (h : wfCells g lo cells = true) :
    wfCells g lo (cells.filter p) = true := by
  induction cells generalizing lo with
  | nil => exact h
  | cons c rest ih =>
    simp only [wfCells, Bool.and_eq_true, decide_eq_true_eq] at h
    by_cases hp : p c
    · simp [hp, wfCells, h.1.1.1, h.1.1.2, h.1.2, ih h.2]
    · simpa [hp] using wfCells_mono (by omega) (ih h.2)

theorem wfCells_insertCell (h : wfCells g lo cells = true) (hl : lo ≤ a) (ha : a < 4096)
    (hn : ∀ c ∈ cells, c.1 ≠ a) : wfCells g lo (insertCell g a b cells) = true := by
  induction cells generalizing lo with
  | nil => exact wfCells_consCell rfl hl ha
  | cons c rest ih =>
    have hc : c.1 ≠ a := hn c (by simp)
    simp only [wfCells, Bool.and_eq_true, decide_eq_true_eq] at h
    simp only [insertCell]
    split
    · refine wfCells_consCell ?_ hl ha
      simp [wfCells, h.1.1.2, h.1.2, h.2]
      omega
    · simp [wfCells, h.1.1.1, h.1.1.2, h.1.2, ih h.2 (by omega) fun d hd => hn d (by simp [hd])]

/-- A write keeps the canonical form. -/
theorem wfCells_writeCells (h : wfCells g 0 cells = true) (ha : a < 4096) :
    wfCells g 0 (writeCells g a b cells) = true :=
  wfCells_insertCell (wfCells_filter _ h) (by omega) ha (by simp)

/-! ### Memory -/

@[simp] theorem Memory.write_glyphs (m : Memory) (a : Nat) (b : Byte) : (m.write a b).glyphs = m.glyphs := rfl

theorem Memory.read_write (m : Memory) (a a' : Nat) (b : Byte) :
    (m.write a b).read a' = if a' = a then b else m.read a' := readCells_writeCells ..

@[simp] theorem Memory.read_write_same (m : Memory) (a : Nat) (b : Byte) : (m.write a b).read a = b := by
  simp [Memory.read_write]

theorem Memory.read_write_ne (m : Memory) (h : a' ≠ a) (b : Byte) : (m.write a b).read a' = m.read a' := by
  simp [Memory.read_write, h]

theorem Memory.wf_write {m : Memory} (h : m.wf = true) (ha : a < 4096) (b : Byte) :
    (m.write a b).wf = true := wfCells_writeCells h ha

theorem Memory.wf_reset (g : GlyphTable) : (Memory.mk g []).wf = true := rfl

/-! ### Effective addresses and bytes of the state -/

theorem ea_lt (a : Word) : ea a < 4096 := Nat.mod_lt _ (by decide)

/-- Two offsets of one block below 4096 name one cell only when they are equal (R54). -/
theorem ea_add_inj (a : Word) {j k : Nat} (hj : j < 4096) (hk : k < 4096)
    (h : ea (a + BitVec.ofNat 16 j) = ea (a + BitVec.ofNat 16 k)) : j = k := by
  simp only [ea, BitVec.toNat_add, BitVec.toNat_ofNat] at h
  omega

/-- `EA` does not see bits 15..12 (R42). -/
theorem ea_add_congr {a a' : Word} (h : ea a = ea a') (d : Word) : ea (a + d) = ea (a' + d) := by
  simp only [ea, BitVec.toNat_add] at *
  omega

theorem State.readMem_writeMem (s : State) (a a' : Word) (b : Byte) :
    (s.writeMem a b).readMem a' = if ea a' = ea a then b else s.readMem a' := Memory.read_write ..

/-- A byte store changes `memory` only. -/
theorem State.writeMem_eq (s : State) (a : Word) (b : Byte) : s.writeMem a b = s.setMem (s.mem.write (ea a) b) := rfl

end Sys2Proof.Machine
end

