-- ==== Sys2Proof/Laws/Ops.lean ====
section
/-! SUPPORT. What each shared operation can do: registers, program counter, stack, block stores, fetch, flags. -/

namespace Sys2Proof.Machine

/-! ### Registers and flags (R11, R119) -/

theorem State.reg_setReg (s : State) (r q : Reg) (v : Byte) :
    (s.setReg r v).reg q = if q = r then v else s.reg q := by
  by_cases h : q = r
  · subst h; simp [State.reg, State.setReg]
  · have : r.val ≠ q.val := fun e => h (Fin.ext e.symm)
    simp [State.reg, State.setReg, h, Vector.getElem_set_ne, this]

@[simp] theorem State.reg_setReg_same (s : State) (r : Reg) (v : Byte) : (s.setReg r v).reg r = v := by
  simp [State.reg_setReg]

theorem State.reg_setReg_ne (s : State) {r q : Reg} (h : q ≠ r) (v : Byte) : (s.setReg r v).reg q = s.reg q := by
  simp [State.reg_setReg, h]

@[simp] theorem State.reg_setV (s : State) (v : Vector Byte 16) (q : Reg) : (s.setV v).reg q = v[q] := rfl

/-- Two register files that read alike are equal. -/
theorem State.V_ext {s t : State} (h : ∀ q, t.reg q = s.reg q) : t.V = s.V := by
  apply Vector.ext
  intro k hk
  exact h ⟨k, hk⟩

/-- `VF` holds the flag and `V[x]` the result unless it is `VF` (R119 (b)). -/
theorem State.reg_writeResult (s : State) (x q : Reg) (v : Byte) (c : Bool) :
    (s.writeResult x v c).reg q = if q = VF then flagByte c else if q = x then v else s.reg q := by
  simp [State.writeResult, State.setFlag, State.reg_setReg]

theorem State.writeResult_eq (s : State) (x : Reg) (v : Byte) (c : Bool) :
    s.writeResult x v c = (s.setReg x v).setReg VF (flagByte c) := rfl

/-- A flag is the byte 0x00 or 0x01 (R119 (e)). -/
theorem flagByte_cases (c : Bool) : flagByte c = 0 ∨ flagByte c = 1 := by cases c <;> simp [flagByte]

@[simp] theorem flagByte_eq_one (c : Bool) : flagByte c = 1 ↔ c = true := by cases c <;> decide
@[simp] theorem flagByte_eq_zero (c : Bool) : flagByte c = 0 ↔ c = false := by cases c <;> decide

/-! ### Program counter (R7, R71) -/

@[simp] theorem State.advance_eq (s : State) : s.advance = s.setPC (s.PC + 2) := rfl

theorem State.skipIf_eq (s : State) (c : Bool) : s.skipIf c = s.setPC (if c then s.PC + 4 else s.PC + 2) := rfl

@[simp] theorem State.skipIf_true (s : State) : s.skipIf true = s.setPC (s.PC + 4) := rfl
@[simp] theorem State.skipIf_false (s : State) : s.skipIf false = s.setPC (s.PC + 2) := rfl

/-! ### Return stack (R15, R81, R83) -/

theorem State.push_of_lt (s : State) (v : Word) (h : s.SP.val < 16) :
    s.push v = some (s.setStack (s.stack.set s.SP.val v) ⟨s.SP.val + 1, by omega⟩) := dif_pos h

theorem State.push_full (s : State) (v : Word) (h : s.SP.val = 16) : s.push v = none := by
  simp [State.push, h]

theorem State.pop_empty (s : State) (h : s.SP.val = 0) : s.pop = none := dif_pos h

theorem State.pop_of_ne (s : State) (h : s.SP.val ≠ 0) :
    s.pop = some (s.stack[s.SP.val - 1]'(by have := s.SP.isLt; omega), s.setStack s.stack ⟨s.SP.val - 1, by omega⟩) :=
  dif_neg h

/-- What a push can answer. -/
theorem State.push_cases (s : State) (v : Word) :
    (s.SP.val = 16 ∧ s.push v = none) ∨
      ∃ h : s.SP.val < 16, s.push v = some (s.setStack (s.stack.set s.SP.val v) ⟨s.SP.val + 1, by omega⟩) := by
  have := s.SP.isLt
  by_cases h : s.SP.val < 16
  · exact .inr ⟨h, s.push_of_lt v h⟩
  · exact .inl ⟨by omega, s.push_full v (by omega)⟩

/-- What a pop can answer. -/
theorem State.pop_cases (s : State) :
    (s.SP.val = 0 ∧ s.pop = none) ∨
      ∃ h : s.SP.val - 1 < 16, s.SP.val ≠ 0 ∧
        s.pop = some (s.stack[s.SP.val - 1], s.setStack s.stack ⟨s.SP.val - 1, by omega⟩) := by
  have := s.SP.isLt
  by_cases h : s.SP.val = 0
  · exact .inl ⟨h, s.pop_empty h⟩
  · exact .inr ⟨by omega, h, s.pop_of_ne h⟩

/-! ### Block stores (R47, R54): memory only -/

@[simp] theorem State.storeBytes_V (s : State) (a : Word) (bs : List Byte) : (s.storeBytes a bs).V = s.V := by
  induction bs generalizing s a with
  | nil => rfl
  | cons b rest ih => rw [State.storeBytes, ih]; rfl

@[simp] theorem State.storeBytes_I (s : State) (a : Word) (bs : List Byte) : (s.storeBytes a bs).I = s.I := by
  induction bs generalizing s a with
  | nil => rfl
  | cons b rest ih => rw [State.storeBytes, ih]; rfl

@[simp] theorem State.storeBytes_PC (s : State) (a : Word) (bs : List Byte) : (s.storeBytes a bs).PC = s.PC := by
  induction bs generalizing s a with
  | nil => rfl
  | cons b rest ih => rw [State.storeBytes, ih]; rfl

@[simp] theorem State.storeBytes_stack (s : State) (a : Word) (bs : List Byte) : (s.storeBytes a bs).stack = s.stack := by
  induction bs generalizing s a with
  | nil => rfl
  | cons b rest ih => rw [State.storeBytes, ih]; rfl

@[simp] theorem State.storeBytes_SP (s : State) (a : Word) (bs : List Byte) : (s.storeBytes a bs).SP = s.SP := by
  induction bs generalizing s a with
  | nil => rfl
  | cons b rest ih => rw [State.storeBytes, ih]; rfl

@[simp] theorem State.storeBytes_DT (s : State) (a : Word) (bs : List Byte) : (s.storeBytes a bs).DT = s.DT := by
  induction bs generalizing s a with
  | nil => rfl
  | cons b rest ih => rw [State.storeBytes, ih]; rfl

@[simp] theorem State.storeBytes_ST (s : State) (a : Word) (bs : List Byte) : (s.storeBytes a bs).ST = s.ST := by
  induction bs generalizing s a with
  | nil => rfl
  | cons b rest ih => rw [State.storeBytes, ih]; rfl

@[simp] theorem State.storeBytes_keys (s : State) (a : Word) (bs : List Byte) : (s.storeBytes a bs).keys = s.keys := by
  induction bs generalizing s a with
  | nil => rfl
  | cons b rest ih => rw [State.storeBytes, ih]; rfl

@[simp] theorem State.storeBytes_display (s : State) (a : Word) (bs : List Byte) : (s.storeBytes a bs).display = s.display := by
  induction bs generalizing s a with
  | nil => rfl
  | cons b rest ih => rw [State.storeBytes, ih]; rfl

@[simp] theorem State.storeBytes_drawFlag (s : State) (a : Word) (bs : List Byte) : (s.storeBytes a bs).drawFlag = s.drawFlag := by
  induction bs generalizing s a with
  | nil => rfl
  | cons b rest ih => rw [State.storeBytes, ih]; rfl

@[simp] theorem State.storeBytes_soundFlag (s : State) (a : Word) (bs : List Byte) : (s.storeBytes a bs).soundFlag = s.soundFlag := by
  induction bs generalizing s a with
  | nil => rfl
  | cons b rest ih => rw [State.storeBytes, ih]; rfl

@[simp] theorem State.storeBytes_waiting (s : State) (a : Word) (bs : List Byte) : (s.storeBytes a bs).waiting = s.waiting := by
  induction bs generalizing s a with
  | nil => rfl
  | cons b rest ih => rw [State.storeBytes, ih]; rfl

@[simp] theorem State.storeBytes_waitReg (s : State) (a : Word) (bs : List Byte) : (s.storeBytes a bs).waitReg = s.waitReg := by
  induction bs generalizing s a with
  | nil => rfl
  | cons b rest ih => rw [State.storeBytes, ih]; rfl

@[simp] theorem State.storeBytes_rnd (s : State) (a : Word) (bs : List Byte) : (s.storeBytes a bs).rnd = s.rnd := by
  induction bs generalizing s a with
  | nil => rfl
  | cons b rest ih => rw [State.storeBytes, ih]; rfl

@[simp] theorem State.storeBytes_draws (s : State) (a : Word) (bs : List Byte) : (s.storeBytes a bs).draws = s.draws := by
  induction bs generalizing s a with
  | nil => rfl
  | cons b rest ih => rw [State.storeBytes, ih]; rfl

@[simp] theorem State.storeBytes_glyphs (s : State) (a : Word) (bs : List Byte) :
    (s.storeBytes a bs).mem.glyphs = s.mem.glyphs := by
  induction bs generalizing s a with
  | nil => rfl
  | cons b rest ih => rw [State.storeBytes, ih]; rfl

@[simp] theorem State.storeBytes_reg (s : State) (a : Word) (bs : List Byte) (q : Reg) :
    (s.storeBytes a bs).reg q = s.reg q := by simp [State.reg]

@[simp] theorem State.storeBytes_pixel (s : State) (a : Word) (bs : List Byte) (r : Fin 32) (c : Fin 64) :
    (s.storeBytes a bs).pixel r c = s.pixel r c := by simp [State.pixel]

/-- A block store keeps the canonical form of memory. -/
theorem State.storeBytes_wf {s : State} (h : s.mem.wf = true) (a : Word) (bs : List Byte) :
    (s.storeBytes a bs).mem.wf = true := by
  induction bs generalizing s a with
  | nil => exact h
  | cons b rest ih => exact ih (Memory.wf_write h (ea_lt a) b) (a + 1)

theorem add_ofNat_succ (a : Word) (k : Nat) : a + BitVec.ofNat 16 (k + 1) = a + 1 + BitVec.ofNat 16 k := by
  rw [Nat.add_comm k 1, BitVec.ofNat_add, ← BitVec.add_assoc]
  rfl

/-- A cell no byte of the block lies in keeps its byte. -/
theorem State.read_storeBytes_outside (s : State) (a : Word) (bs : List Byte) (n : Nat)
    (h : ∀ k < bs.length, n ≠ ea (a + BitVec.ofNat 16 k)) : (s.storeBytes a bs).mem.read n = s.mem.read n := by
  induction bs generalizing s a with
  | nil => rfl
  | cons b rest ih =>
    rw [State.storeBytes, ih]
    · have h0 := h 0 (by simp)
      exact Memory.read_write_ne _ (by simpa using h0) b
    · intro k hk
      have := h (k + 1) (by simpa using hk)
      rwa [add_ofNat_succ] at this

/-- The `k`-th byte of the block is in cell `EA(a + k)`. -/
theorem State.read_storeBytes_inside (s : State) (a : Word) (bs : List Byte) (hl : bs.length ≤ 4096) (k : Nat)
    (hk : k < bs.length) : (s.storeBytes a bs).mem.read (ea (a + BitVec.ofNat 16 k)) = bs[k] := by
  induction bs generalizing s a k with
  | nil => exact absurd hk (by simp)
  | cons b rest ih =>
    cases k with
    | zero =>
      rw [State.storeBytes, State.read_storeBytes_outside]
      · simp [State.writeMem]
      · intro j hj e
        have := ea_add_inj a (j := 0) (k := j + 1) (by omega) (by simp at hl; omega)
          (by rw [e, ← add_ofNat_succ])
        omega
    | succ j =>
      have := ih (s.writeMem a b) (a + 1) (by simp at hl; omega) j (by simpa using hk)
      simp only [add_ofNat_succ]
      simpa [State.storeBytes] using this

theorem State.length_regsUpTo (s : State) (x : Reg) : (s.regsUpTo x).length = x.val + 1 := by
  simp [State.regsUpTo]

theorem State.getElem_regsUpTo (s : State) (x : Reg) (k : Nat) (h : k < (s.regsUpTo x).length) :
    (s.regsUpTo x)[k] = s.reg ⟨k, by rw [State.length_regsUpTo] at h; omega⟩ := by
  simp [State.regsUpTo, State.reg]

theorem State.getElem_loadedRegs (s : State) (x q : Reg) :
    (s.loadedRegs x)[q] = if q ≤ x then s.readMem (s.I + BitVec.ofNat 16 q.val) else s.reg q := by
  simp [State.loadedRegs]

/-! ### Fetch (R43, R44, R45) -/

/-- Fetch depends on `memory` and `EA(PC)` only. -/
theorem State.fetchWord_congr {s t : State} (hm : t.mem = s.mem) (hp : ea t.PC = ea s.PC) :
    t.fetchWord = s.fetchWord := by
  simp only [State.fetchWord, State.readWord, State.readMem, hm, hp, ea_add_congr hp]

end Sys2Proof.Machine
end

