-- ==== Sys2Proof/Laws/Draw.lean ====
section
/-! SUPPORT. Pixels of a drawn sprite (spec/45_draw.md R140, R141). -/

namespace Sys2Proof.Machine

/-- Column `c` of a placed byte is its column `c - x0`; outside the eight columns it is 0. -/
theorem getMsbD_placeByte (x0 : Nat) (b : Byte) (c : Nat) (hc : c < 64) :
    (placeByte x0 b).getMsbD c = (decide (x0 ≤ c) && b.getMsbD (c - x0)) := by
  rw [placeByte, BitVec.getMsbD_ushiftRight]
  by_cases h : x0 ≤ c
  · have h8 : ¬ c < x0 := by omega
    rw [show (b ++ (0 : BitVec 56) : BitVec 64).getMsbD (c - x0) = b.getMsbD (c - x0) from ?_]
    · simp [hc, h, h8]
    · refine (BitVec.getMsbD_append (x := b) (y := (0 : BitVec 56))).trans ?_
      split
      · simp [BitVec.getMsbD_of_ge b (c - x0) (by omega)]
      · rfl
  · simp [h, Nat.lt_of_not_le h]

/-- The bits of a byte from the left: `col` is bit `7 - col` (R140). -/
theorem getMsbD_byte (b : Byte) (col : Nat) (h : col < 8) : b.getMsbD col = b.getLsbD (7 - col) := by
  simp [BitVec.getMsbD, h]

@[simp] theorem State.getElem_spriteMask (s : State) (x0 y0 n k : Nat) (h : k < 32) :
    (s.spriteMask x0 y0 n)[k] = s.spriteRow x0 y0 n ⟨k, h⟩ := by simp [State.spriteMask]

@[simp] theorem getElem_xorDisplay (d m : Display) (k : Nat) (h : k < 32) :
    (xorDisplay d m)[k] = d[k] ^^^ m[k] := by simp [xorDisplay]

/-- Pixel `(r, c)` lies under a 1 bit of the sprite (the set `S` of R142). -/
theorem State.getMsbD_spriteRow (s : State) (x0 y0 n : Nat) (r : Fin 32) (c : Nat) (hc : c < 64) :
    (s.spriteRow x0 y0 n r).getMsbD c =
      (decide (y0 ≤ r.val ∧ r.val < y0 + n) &&
        (decide (x0 ≤ c) && (s.readMem (s.I + BitVec.ofNat 16 (r.val - y0))).getMsbD (c - x0))) := by
  unfold State.spriteRow
  split
  · simp [getMsbD_placeByte, *]
  · simp [*]

/-- A draw inverts the pixels under the mask and no other. -/
theorem State.pixel_drawMask (s : State) (m : Display) (r : Fin 32) (c : Fin 64) :
    (s.drawMask m).pixel r c = (s.pixel r c ^^ m[r].getMsbD c.val) := by
  simp [State.drawMask, State.setFlag, State.pixel]

/-- A bitmap row is not 0 exactly when one of its pixels is set. -/
theorem row_ne_zero_iff (v : BitVec 64) : v ≠ 0 ↔ ∃ c : Fin 64, v.getMsbD c.val = true := by
  constructor
  · intro h
    by_contra hn
    refine h (BitVec.eq_of_getMsbD_eq fun i hi => ?_)
    simpa using fun e => hn ⟨⟨i, hi⟩, e⟩
  · rintro ⟨c, hc⟩ rfl
    simp at hc

/-- A collision is a set pixel under the mask. -/
theorem collides_iff (d m : Display) :
    collides d m = true ↔ ∃ (r : Fin 32) (c : Fin 64), d[r].getMsbD c.val = true ∧ m[r].getMsbD c.val = true := by
  simp only [collides, decide_eq_true_eq, row_ne_zero_iff, BitVec.getMsbD_and, Bool.and_eq_true]

/-- Two bitmaps whose pixels agree are equal. -/
theorem display_ext {d e : Display} (h : ∀ (r : Fin 32) (c : Fin 64), d[r].getMsbD c.val = e[r].getMsbD c.val) :
    d = e := by
  apply Vector.ext
  intro r hr
  exact BitVec.eq_of_getMsbD_eq fun c hc => h ⟨r, hr⟩ ⟨c, hc⟩

/-- The registers after a draw: only `VF` is written. -/
theorem State.reg_drawMask (s : State) (m : Display) (q : Reg) :
    (s.drawMask m).reg q = if q = VF then flagByte (collides s.display m) else s.reg q := by
  simp [State.drawMask, State.setFlag, State.reg_setReg]

end Sys2Proof.Machine
end

