-- ==== Sys2Proof/Laws/Step.lean ====
section
/-! SUPPORT. What one STEP can do (spec/30_encoding.md R70). -/

namespace Sys2Proof.Machine

theorem step_waiting {s : State} (h : s.waiting = true) : step s = .next s := by simp [step, h]

theorem step_decoded {s : State} {i : Instr} (h : s.waiting = false) (hd : decodeWord s.fetchWord = some i) :
    step s = exec i s := by simp [step, h, hd]

theorem step_illegal {s : State} (h : s.waiting = false) (hd : decodeWord s.fetchWord = none) :
    step s = .fault (.unknownInstruction s.fetchWord) := by simp [step, h, hd, raise]

/-- A STEP that answers a next state awaits input and changes nothing, or runs the instruction it decodes. -/
theorem step_cases {s t : State} (h : step s = .next t) :
    (s.waiting = true ∧ t = s) ∨
      ∃ i, s.waiting = false ∧ decodeWord s.fetchWord = some i ∧ exec i s = .next t := by
  cases hw : s.waiting with
  | true => simp only [step_waiting hw, Host.Outcome.next.injEq] at h; exact .inl ⟨rfl, h.symm⟩
  | false =>
    cases hd : decodeWord s.fetchWord with
    | none => simp [step_illegal hw hd] at h
    | some i => exact .inr ⟨i, rfl, rfl, step_decoded hw hd ▸ h⟩

/-- A STEP that raises an error met an illegal word, or ran the instruction that raises it. -/
theorem step_fault_cases {s : State} {e : Fault} (h : step s = .fault e) :
    s.waiting = false ∧
      ((decodeWord s.fetchWord = none ∧ e = .unknownInstruction s.fetchWord) ∨
        ∃ i, decodeWord s.fetchWord = some i ∧ exec i s = .fault e) := by
  cases hw : s.waiting with
  | true => simp [step_waiting hw] at h
  | false =>
    cases hd : decodeWord s.fetchWord with
    | none =>
      simp only [step_illegal hw hd, Host.Outcome.fault.injEq] at h
      exact ⟨rfl, .inl ⟨rfl, h.symm⟩⟩
    | some i => exact ⟨rfl, .inr ⟨i, rfl, step_decoded hw hd ▸ h⟩⟩

end Sys2Proof.Machine
end

