-- ==== Sys2Proof/Laws/HostOps.lean ====
section
/-! SUPPORT. What each host operation can do (spec/60_exceptions.md R192 to R196, spec/70_reset_and_hazards.md). -/

namespace Sys2Proof.Machine

@[simp] theorem resetWith_mem (g : GlyphTable) : (State.resetWith g).mem = ⟨g, []⟩ := rfl
@[simp] theorem resetWith_PC (g : GlyphTable) : (State.resetWith g).PC = 0x200 := rfl
@[simp] theorem resetWith_SP (g : GlyphTable) : (State.resetWith g).SP = 0 := rfl
@[simp] theorem resetWith_waiting (g : GlyphTable) : (State.resetWith g).waiting = false := rfl
@[simp] theorem resetWith_reg (g : GlyphTable) (q : Reg) : (State.resetWith g).reg q = 0 := by
  simp [State.reg, State.resetWith]
@[simp] theorem resetWith_pixel (g : GlyphTable) (r : Fin 32) (c : Fin 64) :
    (State.resetWith g).pixel r c = false := by
  simp [State.pixel, State.resetWith]

@[simp] theorem hostReset_mem (s : State) : s.hostReset.mem = ⟨s.mem.glyphs, []⟩ := rfl
@[simp] theorem hostReset_waiting (s : State) : s.hostReset.waiting = false := rfl

/-- `LOAD` answers an error or writes `memory` only (R212). -/
theorem State.load_cases (s : State) (bytes : List Byte) :
    (3584 < bytes.length ∧ s.load bytes = .fault .programTooLarge) ∨
      (bytes.length ≤ 3584 ∧ s.load bytes = .next (s.storeBytes 0x200 bytes)) := by
  by_cases h : 3584 < bytes.length
  · exact .inl ⟨h, by simp [State.load, h, raise]⟩
  · exact .inr ⟨by omega, by simp [State.load, h]⟩

/-- A timer never goes below zero (R192). -/
theorem toNat_countDown (t : Byte) : (countDown t).toNat = t.toNat - 1 := by
  unfold countDown
  split
  · have := t.isLt
    rw [BitVec.toNat_sub]
    simp
    omega
  · omega

theorem State.keyDown_ready {s : State} (h : s.waiting = false) (k : Key) : s.keyDown k = s.setKey k true := by
  simp [State.keyDown, h]

theorem State.keyDown_waiting {s : State} (h : s.waiting = true) (k : Key) :
    s.keyDown k = (((s.setKey k true).setReg s.waitReg (byteOfKey k)).setPC (s.PC + 2)).setWait false s.waitReg := by
  simp [State.keyDown, h]

/-- Whatever an operation does, the state after it is the one it answers or the one before (R186). -/
theorem after_cases (op : Operation) (s : State) : perform op s = .next (after op s) ∨ after op s = s := by
  unfold after
  split
  · exact .inl ‹_›
  · exact .inr rfl

/-- A property every operation keeps holds along every run (R191). -/
theorem runOps_induction {P : State → Prop} (step : ∀ op s, P s → P (after op s)) (ops : List Operation) {s : State}
    (h : P s) : P (runOps ops s) := by
  induction ops generalizing s with
  | nil => exact h
  | cons op rest ih => exact ih (step op s h)

end Sys2Proof.Machine
end

