-- ==== Sys2Proof/Laws/PerInstr.lean ====
section
/-! SUPPORT. Statements about every instruction as syntax, one lemma per constructor. Family `OpcodeRow`: the encoding of
spec/30_encoding.md R62 selects the row of the opcode map of R65 that bears the instruction's mnemonic. -/

namespace Sys2Proof.Laws.OpcodeRow

/-- The word of the instruction selects the row of its mnemonic (R65). -/
def Statement (i : Instr) : Prop := i.mnemonic.row.selects (encode i) = true

theorem of_mask {i : Instr} (h : encode i &&& i.mnemonic.row.mask = i.mnemonic.row.pattern) : Statement i :=
  beq_iff_eq.mpr h

theorem cls : Statement .cls := of_mask rfl
theorem ret : Statement .ret := of_mask rfl
theorem jp (nnn : Addr12) : Statement (.jp nnn) := of_mask (formatA_mask ..)
theorem call (nnn : Addr12) : Statement (.call nnn) := of_mask (formatA_mask ..)
theorem seImm (x : Reg) (nn : Byte) : Statement (.seImm x nn) := of_mask (formatXK_mask ..)
theorem sneImm (x : Reg) (nn : Byte) : Statement (.sneImm x nn) := of_mask (formatXK_mask ..)
theorem seReg (x y : Reg) : Statement (.seReg x y) := of_mask (formatXYS_mask ..)
theorem sneReg (x y : Reg) : Statement (.sneReg x y) := of_mask (formatXYS_mask ..)
theorem ldImm (x : Reg) (nn : Byte) : Statement (.ldImm x nn) := of_mask (formatXK_mask ..)
theorem addImm (x : Reg) (nn : Byte) : Statement (.addImm x nn) := of_mask (formatXK_mask ..)
theorem ldReg (x y : Reg) : Statement (.ldReg x y) := of_mask (formatXYS_mask ..)
theorem or (x y : Reg) : Statement (.or x y) := of_mask (formatXYS_mask ..)
theorem and (x y : Reg) : Statement (.and x y) := of_mask (formatXYS_mask ..)
theorem xor (x y : Reg) : Statement (.xor x y) := of_mask (formatXYS_mask ..)
theorem addReg (x y : Reg) : Statement (.addReg x y) := of_mask (formatXYS_mask ..)
theorem sub (x y : Reg) : Statement (.sub x y) := of_mask (formatXYS_mask ..)
theorem shr (x y : Reg) : Statement (.shr x y) := of_mask (formatXYS_mask ..)
theorem subn (x y : Reg) : Statement (.subn x y) := of_mask (formatXYS_mask ..)
theorem shl (x y : Reg) : Statement (.shl x y) := of_mask (formatXYS_mask ..)
theorem ldI (nnn : Addr12) : Statement (.ldI nnn) := of_mask (formatA_mask ..)
theorem jpV0 (nnn : Addr12) : Statement (.jpV0 nnn) := of_mask (formatA_mask ..)
theorem rnd (x : Reg) (nn : Byte) : Statement (.rnd x nn) := of_mask (formatXK_mask ..)
theorem drw (x y : Reg) (n : Fin 16) : Statement (.drw x y n) := of_mask (formatXYN_mask ..)
theorem skp (x : Reg) : Statement (.skp x) := of_mask (formatXS_mask ..)
theorem sknp (x : Reg) : Statement (.sknp x) := of_mask (formatXS_mask ..)
theorem ldVxDt (x : Reg) : Statement (.ldVxDt x) := of_mask (formatXS_mask ..)
theorem ldVxK (x : Reg) : Statement (.ldVxK x) := of_mask (formatXS_mask ..)
theorem ldDtVx (x : Reg) : Statement (.ldDtVx x) := of_mask (formatXS_mask ..)
theorem ldStVx (x : Reg) : Statement (.ldStVx x) := of_mask (formatXS_mask ..)
theorem addI (x : Reg) : Statement (.addI x) := of_mask (formatXS_mask ..)
theorem ldF (x : Reg) : Statement (.ldF x) := of_mask (formatXS_mask ..)
theorem ldB (x : Reg) : Statement (.ldB x) := of_mask (formatXS_mask ..)
theorem ldMemV (x : Reg) : Statement (.ldMemV x) := of_mask (formatXS_mask ..)
theorem ldVMem (x : Reg) : Statement (.ldVMem x) := of_mask (formatXS_mask ..)

end Sys2Proof.Laws.OpcodeRow
end

