-- ==== Sys2Proof/Tests/Slice0.lean ====
section
/-! SUPPORT. The model's own tests: the refused ill-formed terms of WellFormed, decodings of words written out from the
patterns of spec/30_encoding.md R65, one STEP per vector of spec/95_test_vectors.md (expected values are the spec's, by
hand, and the vector's name is cited), and for each statement with hypotheses a state and operands that meet them. -/

namespace Sys2Proof.Tests

open Sys2Proof.Machine Sys2Proof.Safety Sys2Proof.Claims

/-- What `f` reads in the next state, if there is one. -/
def view {α : Type} (f : State → α) : Answer → Option α
  | .next t => some (f t)
  | _ => none

/-- The error, if there is one. -/
def error : Answer → Option Fault
  | .fault e => some e
  | _ => none

/-- The reset state with some registers set. -/
def withRegs (vs : List (Reg × Byte)) : State := vs.foldl (fun s v => s.setReg v.1 v.2) State.reset

/-- One STEP on a word placed at `PC`. -/
def run (w : Nat) (s : State) : Answer := step (s.withFetchWord 16 w)

/-- The states of the stack tests: `n` slots in use. -/
def withDepth (n : Fin 17) (slots : Vector Word 16) : State := State.reset.setStack slots n

/-- A display with one pixel set. -/
def withPixel (s : State) (r : Fin 32) (c : Nat) : State :=
  s.setDisplay (s.display.set r (BitVec.ofNat 64 (2 ^ (63 - c))))

/-- Bytes at an address. -/
def withBytes (s : State) (a : Word) (bs : List Byte) : State := s.storeBytes a bs

/-! ### WellFormed: an ill-formed term for each check -/

theorem test_illegal_family0 : legalWord 0x01E0 = false := by decide
theorem test_illegal_family5 : legalWord 0x5AB1 = false := by decide
theorem test_illegal_family8 : legalWord 0x8AB8 = false := by decide
theorem test_illegal_family9 : legalWord 0x9AB1 = false := by decide
theorem test_illegal_familyE : legalWord 0xE09F = false := by decide
theorem test_illegal_familyF : legalWord 0xF056 = false := by decide
theorem test_legal_add : legalWord 0x8AB4 = true := by decide
theorem test_line_operand_too_wide : (AsmLine.mk .ldImm [0, 256]).wellFormed = false := by decide
theorem test_line_operand_missing : (AsmLine.mk .drw [0, 1]).wellFormed = false := by decide
theorem test_line_operand_extra : (AsmLine.mk .shr [0, 1]).wellFormed = false := by decide
theorem test_line_good : (AsmLine.mk .drw [0, 15, 1]).wellFormed = true := by decide
theorem test_line_word : (AsmLine.mk .drw [0, 15, 1]).word = 0xD0F1 := by decide
theorem test_asm_add : (Instr.addReg 0xA 0xF).asm = "ADD VA, VF" := by decide
theorem test_asm_jump : (Instr.jpV0 0x30C).asm = "JP V0, 0x30C" := by decide

/-! ### Decoding: words written out from R65 -/

theorem test_decode_cls : decodeTableWord 16 0x00E0 = some (.cls) ∧ encode (.cls) = 0x00E0 := by decide
theorem test_decode_ret : decodeTableWord 16 0x00EE = some (.ret) ∧ encode (.ret) = 0x00EE := by decide
theorem test_decode_jp : decodeTableWord 16 0x1ABC = some (.jp 0xABC) ∧ encode (.jp 0xABC) = 0x1ABC := by decide
theorem test_decode_call : decodeTableWord 16 0x2300 = some (.call 0x300) ∧ encode (.call 0x300) = 0x2300 := by decide
theorem test_decode_seImm : decodeTableWord 16 0x3F01 = some (.seImm 0xF 0x01) ∧ encode (.seImm 0xF 0x01) = 0x3F01 := by decide
theorem test_decode_sneImm : decodeTableWord 16 0x4211 = some (.sneImm 2 0x11) ∧ encode (.sneImm 2 0x11) = 0x4211 := by decide
theorem test_decode_seReg : decodeTableWord 16 0x5AB0 = some (.seReg 0xA 0xB) ∧ encode (.seReg 0xA 0xB) = 0x5AB0 := by decide
theorem test_decode_sneReg : decodeTableWord 16 0x9AB0 = some (.sneReg 0xA 0xB) ∧ encode (.sneReg 0xA 0xB) = 0x9AB0 := by decide
theorem test_decode_ldImm : decodeTableWord 16 0x6042 = some (.ldImm 0 0x42) ∧ encode (.ldImm 0 0x42) = 0x6042 := by decide
theorem test_decode_addImm : decodeTableWord 16 0x75FF = some (.addImm 5 0xFF) ∧ encode (.addImm 5 0xFF) = 0x75FF := by decide
theorem test_decode_ldReg : decodeTableWord 16 0x8AB0 = some (.ldReg 0xA 0xB) ∧ encode (.ldReg 0xA 0xB) = 0x8AB0 := by decide
theorem test_decode_or : decodeTableWord 16 0x8AB1 = some (.or 0xA 0xB) ∧ encode (.or 0xA 0xB) = 0x8AB1 := by decide
theorem test_decode_and : decodeTableWord 16 0x8AB2 = some (.and 0xA 0xB) ∧ encode (.and 0xA 0xB) = 0x8AB2 := by decide
theorem test_decode_xor : decodeTableWord 16 0x8AB3 = some (.xor 0xA 0xB) ∧ encode (.xor 0xA 0xB) = 0x8AB3 := by decide
theorem test_decode_addReg : decodeTableWord 16 0x8AB4 = some (.addReg 0xA 0xB) ∧ encode (.addReg 0xA 0xB) = 0x8AB4 := by decide
theorem test_decode_sub : decodeTableWord 16 0x8AB5 = some (.sub 0xA 0xB) ∧ encode (.sub 0xA 0xB) = 0x8AB5 := by decide
theorem test_decode_shr : decodeTableWord 16 0x8AB6 = some (.shr 0xA 0xB) ∧ encode (.shr 0xA 0xB) = 0x8AB6 := by decide
theorem test_decode_subn : decodeTableWord 16 0x8AB7 = some (.subn 0xA 0xB) ∧ encode (.subn 0xA 0xB) = 0x8AB7 := by decide
theorem test_decode_shl : decodeTableWord 16 0x8ABE = some (.shl 0xA 0xB) ∧ encode (.shl 0xA 0xB) = 0x8ABE := by decide
theorem test_decode_ldI : decodeTableWord 16 0xA300 = some (.ldI 0x300) ∧ encode (.ldI 0x300) = 0xA300 := by decide
theorem test_decode_jpV0 : decodeTableWord 16 0xB345 = some (.jpV0 0x345) ∧ encode (.jpV0 0x345) = 0xB345 := by decide
theorem test_decode_rnd : decodeTableWord 16 0xC10F = some (.rnd 1 0x0F) ∧ encode (.rnd 1 0x0F) = 0xC10F := by decide
theorem test_decode_drw : decodeTableWord 16 0xD0F1 = some (.drw 0 0xF 1) ∧ encode (.drw 0 0xF 1) = 0xD0F1 := by decide
theorem test_decode_skp : decodeTableWord 16 0xE59E = some (.skp 5) ∧ encode (.skp 5) = 0xE59E := by decide
theorem test_decode_sknp : decodeTableWord 16 0xEFA1 = some (.sknp 0xF) ∧ encode (.sknp 0xF) = 0xEFA1 := by decide
theorem test_decode_ldVxDt : decodeTableWord 16 0xF307 = some (.ldVxDt 3) ∧ encode (.ldVxDt 3) = 0xF307 := by decide
theorem test_decode_ldVxK : decodeTableWord 16 0xF50A = some (.ldVxK 5) ∧ encode (.ldVxK 5) = 0xF50A := by decide
theorem test_decode_ldDtVx : decodeTableWord 16 0xF015 = some (.ldDtVx 0) ∧ encode (.ldDtVx 0) = 0xF015 := by decide
theorem test_decode_ldStVx : decodeTableWord 16 0xF218 = some (.ldStVx 2) ∧ encode (.ldStVx 2) = 0xF218 := by decide
theorem test_decode_addI : decodeTableWord 16 0xF11E = some (.addI 1) ∧ encode (.addI 1) = 0xF11E := by decide
theorem test_decode_ldF : decodeTableWord 16 0xF029 = some (.ldF 0) ∧ encode (.ldF 0) = 0xF029 := by decide
theorem test_decode_ldB : decodeTableWord 16 0xF033 = some (.ldB 0) ∧ encode (.ldB 0) = 0xF033 := by decide
theorem test_decode_ldMemV : decodeTableWord 16 0xF255 = some (.ldMemV 2) ∧ encode (.ldMemV 2) = 0xF255 := by decide
theorem test_decode_ldVMem : decodeTableWord 16 0xFF65 = some (.ldVMem 0xF) ∧ encode (.ldVMem 0xF) = 0xFF65 := by decide
theorem test_decode_illegal : ([0x0000, 0x00E1, 0x01E0, 0x0FFF, 0x5AB1, 0x8AB8, 0x8ABF, 0x9AB1] : List Word).all
    (fun w => decodeWord w == none) = true := by decide
theorem test_decode_illegal_EF : ([0xE000, 0xE09F, 0xE1A0, 0xF000, 0xF00B, 0xF030, 0xF085, 0xFFFF] : List Word).all
    (fun w => decodeWord w == none) = true := by decide
theorem test_decode_truncated : decodeBytes [0x60] = .error (.truncated 1) := by rfl
theorem test_decode_by_name : decodeBytes [0x01, 0xE0] = .error (.unknownInstruction 0x01E0) := by rfl

/-! ### One STEP per vector -/

/-- V-0.1 -/
theorem test_cls : view (fun t => (t.display == Vector.replicate 32 0, t.drawFlag, t.PC)) (run 0x00E0 (withPixel State.reset 3 7)) = some (true, true, 0x202) := by decide
/-- V-0.4 -/
theorem test_ret : view (fun t => (t.SP.val, t.PC, t.stack[1])) (run 0x00EE ((withDepth 2 ((Vector.replicate 16 0).set 1 0xABC)).setPC 0x300)) = some (1, 0xABC, 0xABC) := by decide
/-- V-0.3 -/
theorem test_ret_empty : error (run 0x00EE State.reset) = some (.stackUnderflow 0x00EE) := by decide
/-- V-0.7 -/
theorem test_jp_odd : view (fun t => t.PC) (run 0x1201 State.reset) = some 0x201 := by decide
/-- V-0.9 -/
theorem test_call : view (fun t => (t.stack[15], t.SP.val, t.PC)) (run 0x2500 ((withDepth 15 (Vector.replicate 16 0)).setPC 0x400)) = some (0x402, 16, 0x500) := by decide
/-- V-0.10 -/
theorem test_call_full : error (run 0x2300 (withDepth 16 (Vector.replicate 16 0x202))) = some (.stackOverflow 0x2300) := by decide
/-- V-3.10 -/
theorem test_seImm : view (fun t => t.PC) (run 0x3F01 (withRegs [(15, 1)])) = some 0x204 := by decide
/-- V-3.11 -/
theorem test_seImm_wrap : view (fun t => t.PC) (run 0x3000 (State.reset.setPC 0xFFE)) = some 0x1002 := by decide
/-- V-3.3 -/
theorem test_sneImm : view (fun t => t.PC) (run 0x4211 (withRegs [(2, 0x10)])) = some 0x204 := by decide
/-- V-3.4 -/
theorem test_sneImm_equal : view (fun t => t.PC) (run 0x4210 (withRegs [(2, 0x10)])) = some 0x202 := by decide
/-- V-3.5 -/
theorem test_seReg : view (fun t => t.PC) (run 0x5010 (withRegs [(0, 7), (1, 7)])) = some 0x204 := by decide
/-- V-3.6 -/
theorem test_seReg_differ : view (fun t => t.PC) (run 0x5010 (withRegs [(0, 7), (1, 8)])) = some 0x202 := by decide
/-- V-3.8 -/
theorem test_sneReg : view (fun t => t.PC) (run 0x9010 (withRegs [(0, 7), (1, 8)])) = some 0x204 := by decide
/-- V-3.9 -/
theorem test_sneReg_equal : view (fun t => t.PC) (run 0x9010 (withRegs [(0, 7), (1, 7)])) = some 0x202 := by decide
/-- S2 -/
theorem test_ldImm : view (fun t => (t.reg 0, t.PC)) (run 0x6042 State.reset) = some (0x42, 0x202) := by decide
/-- V-6.3 -/
theorem test_addImm : view (fun t => (t.reg 0, t.reg 15)) (run 0x7002 (withRegs [(0, 0xFF)])) = some (1, 0) := by decide
/-- V-6.6 -/
theorem test_addImm_vf : view (fun t => t.reg 15) (run 0x7F01 (withRegs [(15, 0xFF)])) = some 0 := by decide
/-- V-8.1 -/
theorem test_ldReg : view (fun t => t.reg 0) (run 0x8010 (withRegs [(1, 0xAB)])) = some 0xAB := by decide
/-- V-8.2 -/
theorem test_or : view (fun t => (t.reg 0, t.reg 15)) (run 0x8011 (withRegs [(0, 0xF0), (1, 0x0F), (15, 1)])) = some (0xFF, 1) := by decide
/-- V-8.3 -/
theorem test_and : view (fun t => t.reg 0) (run 0x8012 (withRegs [(0, 0xF0), (1, 0x3C)])) = some 0x30 := by decide
/-- V-8.4 -/
theorem test_xor : view (fun t => t.reg 0) (run 0x8013 (withRegs [(0, 0xFF), (1, 0x0F)])) = some 0xF0 := by decide
/-- S3 -/
theorem test_addReg : view (fun t => (t.reg 0, t.reg 15)) (run 0x8014 (withRegs [(0, 0xFF), (1, 1)])) = some (0, 1) := by decide
/-- V-8.10 -/
theorem test_addReg_vf : view (fun t => t.reg 15) (run 0x8F14 (withRegs [(15, 5), (1, 3)])) = some 0 := by decide
/-- S4 -/
theorem test_sub : view (fun t => (t.reg 0, t.reg 15)) (run 0x8015 (withRegs [(0, 1), (1, 2)])) = some (0xFF, 0) := by decide
/-- V-8.13 -/
theorem test_sub_equal : view (fun t => (t.reg 0, t.reg 15)) (run 0x8015 (withRegs [(0, 5), (1, 5)])) = some (0, 1) := by decide
/-- V-8.17 -/
theorem test_subn : view (fun t => (t.reg 0, t.reg 1, t.reg 15)) (run 0x8017 (withRegs [(0, 1), (1, 2)])) = some (1, 2, 1) := by decide
/-- V-8.18 -/
theorem test_subn_borrow : view (fun t => (t.reg 0, t.reg 15)) (run 0x8017 (withRegs [(0, 2), (1, 1)])) = some (0xFF, 0) := by decide
/-- V-8.20 -/
theorem test_shr : view (fun t => (t.reg 0, t.reg 1, t.reg 15)) (run 0x8016 (withRegs [(0, 5), (1, 0xEE)])) = some (2, 0xEE, 1) := by decide
/-- V-8.25 -/
theorem test_shr_vf : view (fun t => t.reg 15) (run 0x8F06 (withRegs [(15, 2)])) = some 0 := by decide
/-- V-8.26 -/
theorem test_shl : view (fun t => (t.reg 0, t.reg 1, t.reg 15)) (run 0x801E (withRegs [(0, 0x81), (1, 0xEE)])) = some (2, 0xEE, 1) := by decide
/-- V-8.30 -/
theorem test_shl_vf : view (fun t => t.reg 15) (run 0x8FFE (withRegs [(15, 0x7F)])) = some 0 := by decide
/-- V-A.1 -/
theorem test_ldI : view (fun t => t.I) (run 0xA300 (State.reset.setI 0xFFFF)) = some 0x300 := by decide
/-- V-A.3 -/
theorem test_jpV0 : view (fun t => t.PC) (run 0xBFFF (withRegs [(0, 0xFF)])) = some 0x10FE := by decide
/-- V-A.4 -/
theorem test_jpV0_not_x : view (fun t => t.PC) (run 0xB345 (withRegs [(3, 0x55)])) = some 0x345 := by decide
/-- V-A.5 -/
theorem test_rnd : view (fun t => (t.reg 0, t.draws)) (run 0xC00F (State.reset.withRnd 0xA7)) = some (7, 2) := by decide
/-- V-A.6, for one byte -/
theorem test_rnd_mask_zero : view (fun t => t.reg 2) (step ((withRegs [(2, 0x99)]).withRnd 0xFF |>.withFetchWord 16 0xC200)) = some 0 := by decide
/-- V-D2 -/
theorem test_draw_two_rows : view (fun t => (t.display == ((Vector.replicate 32 0).set 4 0x0081000000000000).set 5 0x0042000000000000, t.reg 15, t.drawFlag)) (run 0xD012 (withBytes ((withRegs [(0, 8), (1, 4)]).setI 0x300) 0x300 [0x81, 0x42])) = some (true, 0, true) := by decide
/-- V-D3 -/
theorem test_draw_clipped_right : view (fun t => (t.display == (Vector.replicate 32 0).set 0 0xF, t.reg 15)) (run 0xD011 (withBytes ((withRegs [(0, 60)]).setI 0x300) 0x300 [0xFF])) = some (true, 0) := by decide
/-- V-D4 -/
theorem test_draw_clipped_below : view (fun t => (t.display == ((Vector.replicate 32 0).set 30 0x8000000000000000).set 31 0x8000000000000000)) (run 0xD013 (withBytes ((withRegs [(1, 30)]).setI 0x300) 0x300 [0x80, 0x80, 0x80])) = some true := by decide
/-- V-D5 -/
theorem test_draw_start_wraps : view (fun t => (t.display == (Vector.replicate 32 0).set 1 0x8000000000000000)) (run 0xD011 (withBytes ((withRegs [(0, 64), (1, 33)]).setI 0x300) 0x300 [0x80])) = some true := by decide
/-- V-D7 -/
theorem test_draw_collision : view (fun t => (t.display == (Vector.replicate 32 0).set 0 0x8000000000000000, t.reg 15)) (run 0xD011 (withPixel (withBytes (State.reset.setI 0x300) 0x300 [0xC0]) 0 1)) = some (true, 1) := by decide
/-- V-D10 -/
theorem test_draw_clipped_no_collision : view (fun t => (t.display == (Vector.replicate 32 0).set 0 1, t.reg 15)) (run 0xD011 (withPixel (withBytes ((withRegs [(0, 60)]).setI 0x300) 0x300 [0x0F]) 0 63)) = some (true, 0) := by decide
/-- V-D11 -/
theorem test_draw_read_wraps : view (fun t => (t.display == ((Vector.replicate 32 0).set 0 0x8000000000000000).set 1 0x4000000000000000, t.I)) (run 0xD012 (withBytes (State.reset.setI 0xFFF) 0xFFF [0x80, 0x40])) = some (true, 0xFFF) := by decide
/-- V-D12 -/
theorem test_draw_old_vf : view (fun t => (t.display == (Vector.replicate 32 0).set 2 0x8000000000000000, t.reg 15)) (run 0xD0F1 (withBytes ((withRegs [(15, 2)]).setI 0x300) 0x300 [0x80])) = some (true, 0) := by decide
/-- V-E.5 -/
theorem test_skp : view (fun t => t.PC) (run 0xE09E ((withRegs [(0, 0x1A)]).setKey 0xA true)) = some 0x204 := by decide
/-- V-E.2 -/
theorem test_skp_up : view (fun t => t.PC) (run 0xE09E (withRegs [(0, 5)])) = some 0x202 := by decide
/-- V-E.3 -/
theorem test_sknp : view (fun t => t.PC) (run 0xE0A1 (withRegs [(0, 5)])) = some 0x204 := by decide
/-- V-E.4 -/
theorem test_sknp_down : view (fun t => t.PC) (run 0xE0A1 ((withRegs [(0, 5)]).setKey 5 true)) = some 0x202 := by decide
/-- V-F.1 -/
theorem test_ldVxDt : view (fun t => (t.reg 3, t.DT)) (run 0xF307 (State.reset.setDT 0x2A)) = some (0x2A, 0x2A) := by decide
/-- V-F.20, V-F.24 -/
theorem test_ldVxK : view (fun t => (t.waiting, t.waitReg, t.PC, t.reg 5)) (run 0xF50A (State.reset.setKey 3 true)) = some (true, 5, 0x200, 0) := by decide
/-- V-F.2 -/
theorem test_ldDtVx : view (fun t => t.DT) (run 0xF015 (withRegs [(0, 3)])) = some 3 := by decide
/-- V-F.3 -/
theorem test_ldStVx : view (fun t => (t.ST, t.soundFlag)) (run 0xF218 (withRegs [(2, 1)])) = some (1, false) := by decide
/-- V-F.6 -/
theorem test_addI : view (fun t => (t.I, t.reg 15)) (run 0xF01E ((withRegs [(0, 1)]).setI 0xFFF)) = some (0x1000, 0) := by decide
/-- V-F.7 -/
theorem test_addI_wrap : view (fun t => t.I) (run 0xF01E ((withRegs [(0, 1)]).setI 0xFFFF)) = some 0 := by decide
/-- V-F.10 -/
theorem test_ldF : view (fun t => t.I) (run 0xF029 (withRegs [(0, 0x1A)])) = some 0x32 := by decide
/-- V-F.12 -/
theorem test_ldB : view (fun t => (t.readMem 0x300, t.readMem 0x301, t.readMem 0x302, t.I)) (run 0xF033 ((withRegs [(0, 254)]).setI 0x300)) = some (2, 5, 4, 0x300) := by decide
/-- V-F.14 -/
theorem test_ldB_wrap : view (fun t => (t.readMem 0xFFE, t.readMem 0xFFF, t.readMem 0, t.mem.wf)) (run 0xF033 ((withRegs [(0, 123)]).setI 0xFFE)) = some (1, 2, 3, true) := by decide
/-- V-F.15 -/
theorem test_ldMemV : view (fun t => (t.readMem 0x400, t.readMem 0x401, t.readMem 0x402, t.readMem 0x403)) (run 0xF255 ((withRegs [(0, 0x11), (1, 0x22), (2, 0x33)]).setI 0x400)) = some (0x11, 0x22, 0x33, 0) := by decide
/-- V-F.17 -/
theorem test_ldMemV_next_fetch : view (fun t => (t.fetchWord, t.PC)) (run 0xF155 ((withRegs [(0, 0x12)]).setI 0x202)) = some (0x1200, 0x202) := by decide
/-- V-F.18 -/
theorem test_ldVMem : view (fun t => (t.V.toList.take 4, t.I)) (run 0xF265 (withBytes ((withRegs [(3, 0x77)]).setI 0x300) 0x300 [2, 5, 4])) = some ([2, 5, 4, 0x77], 0x300) := by decide
/-- V-F.19, which depends on G1 (log 1) -/
theorem test_ldVMem_glyph : view (fun t => t.V.toList.take 5) (run 0xF465 State.reset) = some [0xF0, 0x90, 0x90, 0x90, 0xF0] := by decide
/-- V-T.14 -/
theorem test_illegal_word : error (run 0x01E0 State.reset) = some (.unknownInstruction 0x01E0) := by decide
/-- V-T.13 -/
theorem test_empty_memory : error (step State.reset) = some (.unknownInstruction 0x0000) := by decide

/-! ### Host operations -/

/-- V-T.3 -/
theorem test_tick_edge : ((((withRegs []).setDT 2).setST 1).tick.DT, (((withRegs []).setDT 2).setST 1).tick.ST,
    (((withRegs []).setDT 2).setST 1).tick.soundFlag) = (1, 0, true) := by decide
/-- V-T.2, V-T.1 -/
theorem test_tick_no_edge : ((withRegs []).setST 2).tick.soundFlag = false ∧ (withRegs []).tick.soundFlag = false := by decide
/-- V-F.23 -/
theorem test_keyDown_completes : (fun t : State => (t.reg 5, t.PC, t.waiting, t.keys[0xB])) ((State.reset.setWait true 5).keyDown 0xB) =
    (0x0B, 0x202, false, true) := by decide
/-- V-F.22 -/
theorem test_keyUp_keeps_waiting : ((State.reset.setWait true 5).keyUp 2).waiting = true := by decide
/-- V-T.10 -/
theorem test_reset_again : (withRegs [(3, 9)]).hostReset = State.reset := by rfl
/-- V-T.11, V-T.12: the longest image and one byte more. -/
theorem test_load_bounds : error (perform (.load (List.replicate 3584 1)) State.reset) = none ∧
    error (perform (.load (List.replicate 3585 1)) State.reset) = some .programTooLarge := by
  constructor
  · rw [perform, State.load, if_neg (by rw [List.length_replicate]; decide)]
    rfl
  · rw [perform, State.load, if_pos (by rw [List.length_replicate]; decide)]
    rfl

/-! ### Hypotheses of the statements are met: at the bounds of each clause -/

theorem meets_EncodingRebuildsEveryDecodedWord : decodeWord 0x8AB6 = some (.shr 0xA 0xB) := by decide
theorem meets_OpcodeRowsDoNotOverlap : Mnemonic.row .shl |>.selects 0x801E := by decide
theorem meets_AssembledLinesDecode : (AsmLine.mk .rnd [15, 255]).wellFormed = true := by decide
theorem meets_StepRunsTheFetchedInstruction :
    (State.reset.withFetchWord 16 0x6042).waiting = false ∧
      decodeWord ((State.reset.withFetchWord 16 0x6042).mem.read (State.reset.PC.toNat % 4096) ++
        (State.reset.withFetchWord 16 0x6042).mem.read ((State.reset.PC.toNat + 1) % 4096)) =
          some (.ldImm 0 0x42) := by decide
/-- The fetch at the top of memory: bytes 0xFFF and 0x000. -/
theorem meets_StepRunsTheFetchedInstruction_wrap :
    decodeWord (((State.reset.setPC 0xFFF).withFetchWord 16 0x6042).mem.read 0xFFF ++
      ((State.reset.setPC 0xFFF).withFetchWord 16 0x6042).mem.read 0) = some (.ldImm 0 0x42) := by decide
theorem meets_StepRaisesExactlyItsThreeErrors_illegal :
    State.reset.waiting = false ∧ decodeWord State.reset.fetchWord = none := by decide
theorem meets_StepRaisesExactlyItsThreeErrors_overflow :
    decodeWord ((withDepth 16 (Vector.replicate 16 0)).withFetchWord 16 0x2300).fetchWord = some (.call 0x300) ∧
      ((withDepth 16 (Vector.replicate 16 0)).withFetchWord 16 0x2300).SP.val = 16 := by decide
theorem meets_StepRaisesExactlyItsThreeErrors_underflow :
    decodeWord (State.reset.withFetchWord 16 0x00EE).fetchWord = some .ret ∧
      (State.reset.withFetchWord 16 0x00EE).SP.val = 0 := by decide
theorem meets_StepWhileAwaitingInputDoesNothing : (State.reset.setWait true 3).waiting = true := by decide
theorem meets_ReportsAreTheResultsOfR180_keyWait :
    decodeWord (State.reset.withFetchWord 16 0xF50A).fetchWord = some (.ldVxK 5) := by decide
theorem meets_EveryInstructionMovesPcByTheTable :
    exec (.jpV0 0xFFF) (withRegs [(0, 0xFF)]) = .next ((withRegs [(0, 0xFF)]).setPC 0x10FE) := by rfl
theorem meets_RetPopsTheReturnAddress :
    0 < (withDepth 16 (Vector.replicate 16 0)).SP.val ∧ 0 < (withDepth 1 (Vector.replicate 16 0)).SP.val := by decide
theorem meets_CallPushesTheNextAddress : (withDepth 15 (Vector.replicate 16 0)).SP.val < 16 := by decide
theorem meets_StackErrorsStopCallAndRet :
    State.reset.SP.val = 0 ∧ (withDepth 16 (Vector.replicate 16 0)).SP.val = 16 := by decide
theorem meets_ReturnGoesBehindTheCall : ∃ t, exec (.call 0x300) (withDepth 15 (Vector.replicate 16 0)) = .next t ∧
    SameStack t t := ⟨_, rfl, rfl, rfl⟩
theorem meets_SelfJumpChangesNothing :
    (State.reset.withFetchWord 16 0x1200).waiting = false ∧ (State.reset.withFetchWord 16 0x1200).PC.toNat < 4096 ∧
      decodeWord (State.reset.withFetchWord 16 0x1200).fetchWord =
        some (.jp (BitVec.ofNat 12 (State.reset.withFetchWord 16 0x1200).PC.toNat)) := by decide
theorem meets_KeySkipsMovePcOnly : (0xA : Key).val = ((withRegs [(0, 0x1A)]).reg 0).toNat % 16 := by decide
theorem meets_OnlyNamedRegistersAreWritten : (∃ t, exec (.addReg 0xF 1) (withRegs [(1, 3)]) = .next t) ∧
    WritesFlag (.addReg 0xF 1) ∧ ¬ MayWriteReg (.addReg 0xF 1) 1 :=
  ⟨⟨_, rfl⟩, trivial, by simp [MayWriteReg]⟩
theorem meets_AddWritesSumAndCarry : (0 : Reg) ≠ 0xF ∧ ((0xFF : Byte).toNat + (1 : Byte).toNat > 255) ∧
    ¬ ((0xFF : Byte).toNat + (0 : Byte).toNat > 255) := by decide
theorem meets_DrawInvertsExactlyTheSprite :
    UnderSprite (withBytes ((withRegs [(0, 0xFF), (1, 0xFF)]).setI 0x300) 0x300 [0x80]) 0 1 1 31 63 := by
  unfold UnderSprite; decide
theorem meets_DrawIsThePixelLoop : ∃ t, exec (.drw 0 1 15) (withRegs [(0, 60), (1, 30)]) = .next t := ⟨_, rfl⟩
theorem meets_DrawTwiceRestoresTheDisplay : (0 : Reg) ≠ 0xF ∧ (1 : Reg) ≠ 0xF ∧
    ∃ t u, exec (.drw 0 1 15) (withRegs [(0, 60)]) = .next t ∧ exec (.drw 0 1 15) t = .next u :=
  ⟨by decide, by decide, _, _, rfl, rfl⟩
theorem meets_LoadReadsBackTheStoredBlock : ∃ t, exec (.ldMemV 0xF) (withRegs [(0, 1)]) = .next t ∧
    SameMemory t t ∧ t.I = t.I := ⟨_, rfl, ⟨fun _ => rfl, rfl⟩, rfl⟩
theorem meets_ReadReturnsTheLatestWrite : (0x1200 : Word).toNat % 4096 = (0x200 : Word).toNat % 4096 ∧
    (0xFFF : Word).toNat % 4096 ≠ (0x1000 : Word).toNat % 4096 := by decide
theorem meets_OnlyStoresWriteMemory :
    view (fun t => t.mem.read 0x300 != State.reset.mem.read 0x300) (execLdB 0 ((withRegs [(0, 254)]).setI 0x300)) =
      some true := by decide
/-- A two-byte store over the next word, at offset 0. -/
theorem meets_StoreIsSeenByTheNextFetch :
    view (fun t => t.fetchWord) (exec (.ldMemV 1) ((withRegs [(0, 0x12), (1, 0x34)]).setI 0x202)) = some 0x1234 ∧
      ea (0x202 : Word) = ea (nextPC ((withRegs [(0, 0x12), (1, 0x34)]).setI 0x202)) := by decide
/-- One byte of the next word stored, the last digit of an `LD_B`, from offset 2; the low byte is as it was. -/
theorem meets_StoreIsSeenByTheNextFetch_ldB :
    view (fun t => t.fetchWord) (exec (.ldB 0) (withBytes ((withRegs [(0, 254)]).setI 0x200) 0x203 [0xE0])) =
      some 0x04E0 ∧ storedByte (.ldB 0) (withRegs [(0, 254)]) 2 = some 4 := by decide
/-- The vector V-M.3, V-M.4: a one-byte store at the next word. -/
theorem test_VM3 :
    view (fun t => t.fetchWord) (exec (.ldMemV 0) (withBytes ((withRegs [(0, 0x12)]).setI 0x202) 0x202 [0x00, 0xE0])) =
      some 0x12E0 := by decide
theorem meets_CanonicalMemoryIsUnique :
    ((State.reset.writeMem 0x300 7).writeMem 0x200 9).mem.wf = true ∧
      ((State.reset.writeMem 0x300 7).writeMem 0x200 9).mem = ((State.reset.writeMem 0x200 9).writeMem 0x300 7).mem := by
  decide
theorem meets_EachElementHasItsWriters :
    ∃ t, exec .cls (State.reset.setI 3) = .next t ∧ Instr.cls.mnemonic = .cls := ⟨_, rfl, rfl⟩
/-- Two states that differ in bits 15..12 of `I` and `PC`, in a stale slot, in `ST` and in a flag. -/
theorem meets_ProgramsCannotSeeHiddenState : Indistinguishable (State.reset.withFetchWord 16 0xF033)
    ((((((State.reset.withFetchWord 16 0xF033).setI 0x1000).setPC 0x3200).setST 9).setDrawFlag true).setStack
      ((Vector.replicate 16 0).set 4 7) 0) ∧
    ∃ t, step (State.reset.withFetchWord 16 0xF033) = .next t := by
  refine ⟨⟨fun _ => rfl, fun _ => rfl, by decide, by decide, rfl, fun k hk => absurd hk (Nat.not_lt_zero _), rfl, rfl, rfl, rfl, fun _ => rfl, rfl, rfl⟩, _, rfl⟩
theorem meets_ProgramsCannotSeeHiddenState_error : ∃ e, step State.reset = .fault e := ⟨_, rfl⟩
/-- A state that awaits input and meets the invariant, and one that runs an instruction. -/
theorem meets_StepKeepsTheInvariant : Inv ((State.reset.withFetchWord 16 0xF50A).setWait true 5) ∧
    (∃ t, step ((State.reset.withFetchWord 16 0xF50A).setWait true 5) = .next t) ∧
    Inv (State.reset.withFetchWord 16 0xF50A) ∧ ∃ t, step (State.reset.withFetchWord 16 0xF50A) = .next t :=
  ⟨⟨by unfold MemoryCanonical; decide, fun _ => by decide⟩, ⟨_, rfl⟩,
    ⟨by unfold MemoryCanonical; decide, fun h => absurd h (by decide)⟩, _, rfl⟩
theorem meets_EveryScheduleKeepsTheInvariant :
    Reachable (runOps [.load [0x60, 0x42], .step 0, .tick] State.reset) ∧ Inv State.reset ∧
      ∀ bytes, Operation.tick ≠ .load bytes :=
  ⟨⟨defaultGlyphs, _, rfl⟩, ⟨rfl, fun h => absurd h (by decide)⟩, fun _ => by simp⟩
theorem meets_LoadCopiesTheImageOrRejectsIt : (List.replicate 3584 (0 : Byte)).length ≤ 3584 ∧
    3584 < (List.replicate 3585 (0 : Byte)).length := by
  rw [List.length_replicate, List.length_replicate]
  decide
theorem meets_FirstStepRunsTheImage : ([] : List Byte).length ≤ 3582 ∧
    (List.replicate 3582 (0 : Byte)).length ≤ 3582 ∧
    decodeWord ((0x60 : Byte) ++ (0x42 : Byte)) = some (.ldImm 0 0x42) := 
  ⟨by decide, le_of_eq List.length_replicate, by decide⟩
theorem meets_TickCountsBothTimersDown : 0 < (State.reset.setDT 1).DT.toNat ∧ State.reset.DT = 0 ∧
    (State.reset.setST 1).ST.toNat = 1 ∧ (State.reset.setST 255).ST.toNat ≠ 1 := by decide
theorem meets_KeyDownCompletesThePendingWait :
    (State.reset.setWait true 0xF).waiting = true ∧ State.reset.waiting = false := by decide
theorem meets_ErrorsPersistUntilResetOrLoad : (∃ e, step State.reset = .fault e) ∧
    ∀ op ∈ [Operation.step 7, .tick, .keyDown 3, .keyUp 3, .ackDraw, .ackSound], LeavesProgram op :=
  ⟨⟨_, rfl⟩, by simp [LeavesProgram]⟩
theorem meets_CallAndRetForms : ∃ t, exec .ret (withDepth 16 (Vector.replicate 16 0)) = .next t := ⟨_, rfl⟩

end Sys2Proof.Tests
end

section
/-! PROOFS. The statements about `JP` (spec/40_family0_jump_call.md). -/

namespace Sys2Proof.Machine

/-- An address widened to a word keeps its value. -/
theorem zext16_eq_ofNat {w : Nat} (v : BitVec w) : zext16 v = BitVec.ofNat 16 v.toNat :=
  (BitVec.ofNat_toNat 16 v).symm

/-- Every word of family 1 is a `JP` (R64). -/
theorem decodeWord_jp (nnn : Addr12) : decodeWord (formatA 0x1 nnn) = some (.jp nnn) := by
  rw [decodeWord, opOf_formatA, nnnOf_formatA]
  rfl

/-- `JP` writes `PC` only, without advancing it (R82). -/
theorem exec_jp (nnn : Addr12) (s : State) : exec (.jp nnn) s = .next (s.setPC (zext16 nnn)) := rfl

/-- Settles O18: family 1 decodes to `JP`, whose one update is of `PC`. -/
theorem jpSetsPc : Obligations.JpSetsPc := by
  intro s nnn
  refine ⟨decodeWord_jp nnn, ?_⟩
  rw [exec_jp, zext16_eq_ofNat, State.setPC]

end Sys2Proof.Machine
end

section
/-! PROOFS. The compare skips (spec/41_skip_compare.md). -/

namespace Sys2Proof.Machine

open Sys2Proof.Claims

/-! ### `NEXT` and `SKIP` (R7) -/

theorem State.next_eq_nextPC (s : State) : s.next = nextPC s := by
  apply BitVec.eq_of_toNat_eq
  simp [State.next, nextPC, BitVec.toNat_add]

theorem State.skip_eq_skipPC (s : State) : s.skip = skipPC s := by
  apply BitVec.eq_of_toNat_eq
  simp [State.skip, skipPC, BitVec.toNat_add]

/-- A conditional skip writes `PC` only: `SKIP` when the condition holds (R90 to R93, R150, R151). -/
theorem State.skipIf_of_iff (s : State) {c : Bool} {p : Prop} [Decidable p] (h : c = true ↔ p) :
    s.skipIf c = { s with PC := if p then skipPC s else nextPC s } := by
  rw [State.skipIf, State.setPC, s.skip_eq_skipPC, s.next_eq_nextPC, if_congr h rfl rfl]

/-- The same when the condition is the one under which the instruction does not skip. -/
theorem State.skipIf_of_iff_not (s : State) {c : Bool} {p : Prop} [Decidable p] (h : c = true ↔ ¬ p) :
    s.skipIf c = { s with PC := if p then nextPC s else skipPC s } := by
  rw [s.skipIf_of_iff h, ite_not]

/-! ### Encodings (R64) -/

theorem decodeWord_seImm (x : Reg) (nn : Byte) : decodeWord (formatXK 0x3 x nn) = some (.seImm x nn) := by
  rw [decodeWord, opOf_formatXK, xOf_formatXK, nnOf_formatXK]
  rfl

theorem decodeWord_sneImm (x : Reg) (nn : Byte) : decodeWord (formatXK 0x4 x nn) = some (.sneImm x nn) := by
  rw [decodeWord, opOf_formatXK, xOf_formatXK, nnOf_formatXK]
  rfl

theorem decodeWord_seReg (x y : Reg) : decodeWord (formatXYN 0x5 x y 0) = some (.seReg x y) := by
  rw [decodeWord, opOf_formatXYN, xOf_formatXYN, yOf_formatXYN, nOf_formatXYN]
  rfl

theorem decodeWord_sneReg (x y : Reg) : decodeWord (formatXYN 0x9 x y 0) = some (.sneReg x y) := by
  rw [decodeWord, opOf_formatXYN, xOf_formatXYN, yOf_formatXYN, nOf_formatXYN]
  rfl

/-! ### Effects (R90 to R93) -/

theorem exec_seImm (x : Reg) (nn : Byte) (s : State) :
    exec (.seImm x nn) s = .next (s.skipIf (s.reg x == nn)) := rfl

theorem exec_sneImm (x : Reg) (nn : Byte) (s : State) :
    exec (.sneImm x nn) s = .next (s.skipIf (s.reg x != nn)) := rfl

theorem exec_seReg (x y : Reg) (s : State) :
    exec (.seReg x y) s = .next (s.skipIf (s.reg x == s.reg y)) := rfl

theorem exec_sneReg (x y : Reg) (s : State) :
    exec (.sneReg x y) s = .next (s.skipIf (s.reg x != s.reg y)) := rfl

/-- Settles O21: the four forms decode, and each is a conditional skip on its comparison, which writes `PC` only. -/
theorem compareSkipsMovePcOnly : Obligations.CompareSkipsMovePcOnly := by
  intro s x y nn
  refine ⟨decodeWord_seImm x nn, decodeWord_sneImm x nn, decodeWord_seReg x y, decodeWord_sneReg x y, ?_, ?_, ?_, ?_⟩
  · rw [exec_seImm, s.skipIf_of_iff beq_iff_eq]
  · rw [exec_sneImm, s.skipIf_of_iff_not bne_iff_ne]
  · rw [exec_seReg, s.skipIf_of_iff beq_iff_eq]
  · rw [exec_sneReg, s.skipIf_of_iff_not bne_iff_ne]

end Sys2Proof.Machine
end

section
/-! PROOFS. The immediate forms `LD_IMM` and `ADD_IMM` (spec/42_immediate.md). -/

namespace Sys2Proof.Machine

open Sys2Proof.Claims

/-! ### One register written, then `PC <- NEXT` (R7, R11) -/

theorem State.reg_setReg_advance (s : State) (x : Reg) (v : Byte) : (s.setReg x v).advance.reg x = v := by
  rw [State.advance, State.setPC_reg, State.reg_setReg_same]

theorem State.PC_setReg_advance (s : State) (x : Reg) (v : Byte) : (s.setReg x v).advance.PC = nextPC s :=
  s.next_eq_nextPC

theorem State.sameRegsBut_setReg_advance (s : State) (x : Reg) (v : Byte) :
    SameRegsBut [x] s (s.setReg x v).advance := by
  intro q hq
  rw [State.advance, State.setPC_reg, State.reg_setReg_ne s (List.ne_of_not_mem_cons hq)]

theorem State.sameRest_setReg_advance (s : State) (x : Reg) (v : Byte) : SameRest s (s.setReg x v).advance :=
  ⟨⟨rfl, rfl⟩, ⟨rfl, rfl⟩, ⟨rfl, rfl⟩, ⟨rfl, rfl⟩, ⟨rfl, rfl⟩⟩

/-- The frame shared by the instructions whose one result is a byte in `V[x]`. -/
theorem State.onlyRegs_setReg_advance (s : State) (x : Reg) (v : Byte) : OnlyRegs [x] s (s.setReg x v).advance :=
  ⟨s.sameRegsBut_setReg_advance x v, rfl, ⟨fun _ => rfl, rfl⟩, ⟨rfl, rfl⟩, s.sameRest_setReg_advance x v⟩

/-! ### Encodings (R64) -/

theorem decodeWord_ldImm (x : Reg) (nn : Byte) : decodeWord (formatXK 0x6 x nn) = some (.ldImm x nn) := by
  rw [decodeWord, opOf_formatXK, xOf_formatXK, nnOf_formatXK]
  rfl

theorem decodeWord_addImm (x : Reg) (nn : Byte) : decodeWord (formatXK 0x7 x nn) = some (.addImm x nn) := by
  rw [decodeWord, opOf_formatXK, xOf_formatXK, nnOf_formatXK]
  rfl

/-! ### Effects (R100, R101) -/

theorem exec_ldImm (x : Reg) (nn : Byte) (s : State) : exec (.ldImm x nn) s = .next (s.setReg x nn).advance := rfl

theorem exec_addImm (x : Reg) (nn : Byte) (s : State) :
    exec (.addImm x nn) s = .next (s.setReg x (s.reg x + nn)).advance := rfl

/-- Settles O23: both forms decode and write one register; the sum of two bytes is already reduced modulo 256, and no
flag is written, so `x = 0xF` is no special case. -/
theorem immediatesWriteOneRegister : Obligations.ImmediatesWriteOneRegister := by
  intro s x nn
  refine ⟨decodeWord_ldImm x nn, decodeWord_addImm x nn, ⟨_, exec_ldImm x nn s, ?load⟩, ⟨_, exec_addImm x nn s, ?add⟩⟩
  case load =>
    exact ⟨s.reg_setReg_advance x nn, s.PC_setReg_advance x nn, s.onlyRegs_setReg_advance x nn⟩
  case add =>
    refine ⟨?_, s.PC_setReg_advance x _, s.onlyRegs_setReg_advance x _⟩
    rw [s.reg_setReg_advance x, BitVec.toNat_add]

end Sys2Proof.Machine
end

section
/-! PROOFS. Copy and bitwise logic of the register-register family (spec/43_alu.md). -/

namespace Sys2Proof.Machine

open Sys2Proof.Claims

/-- An instruction whose answer is one byte written to `V[x]` and `PC <- NEXT` completes with that byte and that
frame (R7, R11). -/
theorem exists_next_of_exec_setReg_advance {i : Instr} {s : State} {x : Reg} {v : Byte}
    (h : exec i s = .next (s.setReg x v).advance) :
    ∃ t, exec i s = .next t ∧ t.reg x = v ∧ t.PC = nextPC s ∧ OnlyRegs [x] s t :=
  ⟨_, h, s.reg_setReg_advance x v, s.PC_setReg_advance x v, s.onlyRegs_setReg_advance x v⟩

/-! ### Encodings (R64) -/

/-- A word of family 8 decodes by its last nibble. -/
theorem decodeWord_family8 (x y : Reg) (n : Fin 16) :
    decodeWord (formatXYN 0x8 x y n) = decodeFamily8 x y n.val := by
  rw [decodeWord, opOf_formatXYN, xOf_formatXYN, yOf_formatXYN, nOf_formatXYN]
  rfl

/-! ### Effects (R110 to R113) -/

theorem exec_ldReg (x y : Reg) (s : State) : exec (.ldReg x y) s = .next (s.setReg x (s.reg y)).advance := rfl

theorem exec_or (x y : Reg) (s : State) :
    exec (.or x y) s = .next (s.setReg x (s.reg x ||| s.reg y)).advance := rfl

theorem exec_and (x y : Reg) (s : State) :
    exec (.and x y) s = .next (s.setReg x (s.reg x &&& s.reg y)).advance := rfl

theorem exec_xor (x y : Reg) (s : State) :
    exec (.xor x y) s = .next (s.setReg x (s.reg x ^^^ s.reg y)).advance := rfl

/-- Settles O24: the four forms decode by their last nibble, and each writes one register with a byte whose bits are
the operation on the operands' bits. -/
theorem copyAndLogicWriteOneRegister : Obligations.CopyAndLogicWriteOneRegister := by
  intro s x y
  refine ⟨decodeWord_family8 x y 0, decodeWord_family8 x y 1, decodeWord_family8 x y 2, decodeWord_family8 x y 3,
    exists_next_of_exec_setReg_advance (exec_ldReg x y s), ?or, ?and, ?xor⟩
  case or =>
    obtain ⟨t, hexec, hreg, hframe⟩ := exists_next_of_exec_setReg_advance (exec_or x y s)
    exact ⟨t, hexec, fun k => by rw [hreg, BitVec.getLsbD_or], hframe⟩
  case and =>
    obtain ⟨t, hexec, hreg, hframe⟩ := exists_next_of_exec_setReg_advance (exec_and x y s)
    exact ⟨t, hexec, fun k => by rw [hreg, BitVec.getLsbD_and], hframe⟩
  case xor =>
    obtain ⟨t, hexec, hreg, hframe⟩ := exists_next_of_exec_setReg_advance (exec_xor x y s)
    exact ⟨t, hexec, fun k => by rw [hreg, BitVec.getLsbD_xor], hframe⟩

end Sys2Proof.Machine
end

section
/-! PROOFS. The index register and the indexed jump (spec/44_index_jump_random.md). -/

namespace Sys2Proof.Machine

open Sys2Proof.Claims

/-! ### `PC` alone written, and `I` written then `PC <- NEXT` (R7, R11) -/

/-- The frame of an instruction whose one update is of `PC`. -/
theorem State.onlyRegs_setPC (s : State) (v : Word) : OnlyRegs [] s (s.setPC v) :=
  ⟨fun _ _ => rfl, rfl, ⟨fun _ => rfl, rfl⟩, ⟨rfl, rfl⟩, ⟨rfl, rfl⟩, ⟨rfl, rfl⟩, ⟨rfl, rfl⟩, ⟨rfl, rfl⟩, ⟨rfl, rfl⟩⟩

/-- An instruction whose answer is one word written to `I` and `PC <- NEXT` completes with that word and leaves the
rest as it was. -/
theorem exists_next_of_exec_setI_advance {i : Instr} {s : State} {v : Word}
    (h : exec i s = .next (s.setI v).advance) :
    ∃ t, exec i s = .next t ∧ t.I = v ∧ t.PC = nextPC s ∧
      SameRegsBut [] s t ∧ SameMemory s t ∧ SameScreen s t ∧ SameRest s t := by
  obtain ⟨hregs, -, hmem, hscreen, hrest⟩ := (s.setI v).onlyRegs_setPC s.next
  exact ⟨_, h, rfl, s.next_eq_nextPC, hregs, hmem, hscreen, hrest⟩

/-! ### The target of the indexed jump -/

/-- An address and a byte sum to at most `0x10FE`: no reduction modulo 65536 takes place (R131). -/
theorem toNat_zext16_add_zext16 (nnn : Addr12) (b : Byte) :
    (zext16 nnn + zext16 b).toNat = nnn.toNat + b.toNat := by
  have hnnn : nnn.toNat < 4096 := nnn.isLt
  have hb : b.toNat < 256 := b.isLt
  rw [zext16, zext16, BitVec.toNat_add, BitVec.toNat_setWidth_of_le (by decide), BitVec.toNat_setWidth_of_le (by decide)]
  exact Nat.mod_eq_of_lt (by omega)

/-! ### Encodings (R64) -/

theorem decodeWord_ldI (nnn : Addr12) : decodeWord (formatA 0xA nnn) = some (.ldI nnn) := by
  rw [decodeWord, opOf_formatA, nnnOf_formatA]
  rfl

theorem decodeWord_jpV0 (nnn : Addr12) : decodeWord (formatA 0xB nnn) = some (.jpV0 nnn) := by
  rw [decodeWord, opOf_formatA, nnnOf_formatA]
  rfl

/-! ### Effects (R130, R131) -/

theorem exec_ldI (nnn : Addr12) (s : State) : exec (.ldI nnn) s = .next (s.setI (zext16 nnn)).advance := rfl

theorem exec_jpV0 (nnn : Addr12) (s : State) :
    exec (.jpV0 nnn) s = .next (s.setPC (zext16 nnn + zext16 (s.reg 0))) := rfl

/-- Settles O19: family B decodes to `JP_V0`, whose one update is of `PC`, with a sum too small to wrap. -/
theorem jpV0AddsV0 : Obligations.JpV0AddsV0 := by
  intro s nnn
  exact ⟨decodeWord_jpV0 nnn, _, exec_jpV0 nnn s, toNat_zext16_add_zext16 nnn (s.reg 0), s.onlyRegs_setPC _⟩

/-- Settles O29: family A decodes to `LD_I`, which writes the widened address to `I` and advances. -/
theorem ldIWritesTheAddress : Obligations.LdIWritesTheAddress := by
  intro s nnn
  obtain ⟨t, hexec, hI, hframe⟩ := exists_next_of_exec_setI_advance (exec_ldI nnn s)
  exact ⟨decodeWord_ldI nnn, t, hexec, by rw [hI, zext16, BitVec.toNat_setWidth_of_le (by decide)], hframe⟩

end Sys2Proof.Machine
end

section
/-! PROOFS. The timer moves (spec/47_misc_timers_memory.md). -/

namespace Sys2Proof.Machine

open Sys2Proof.Claims

/-! ### A timer written, then `PC <- NEXT` (R7, R16) -/

theorem State.advance_setDT (s : State) (v : Byte) :
    (s.setDT v).advance = { s with DT := v, PC := nextPC s } := by
  rw [← s.next_eq_nextPC]
  rfl

theorem State.advance_setST (s : State) (v : Byte) :
    (s.setST v).advance = { s with ST := v, PC := nextPC s } := by
  rw [← s.next_eq_nextPC]
  rfl

/-! ### Encodings (R64) -/

/-- A word of family F decodes by its low byte. -/
theorem decodeWord_familyF (x : Reg) (nn : Byte) : decodeWord (formatXK 0xF x nn) = decodeFamilyF x nn.toNat := by
  rw [decodeWord, opOf_formatXK, xOf_formatXK, nnOf_formatXK]
  rfl

/-! ### Effects (R160, R162, R163) -/

theorem exec_ldVxDt (x : Reg) (s : State) : exec (.ldVxDt x) s = .next (s.setReg x s.DT).advance := rfl

theorem exec_ldDtVx (x : Reg) (s : State) : exec (.ldDtVx x) s = .next (s.setDT (s.reg x)).advance := rfl

theorem exec_ldStVx (x : Reg) (s : State) : exec (.ldStVx x) s = .next (s.setST (s.reg x)).advance := rfl

/-- Settles O35: the three forms decode by their low byte; the read of `DT` writes one register, and each write of a
timer changes that timer and `PC` only. -/
theorem timerMovesCopyOneByte : Obligations.TimerMovesCopyOneByte := by
  intro s x
  refine ⟨decodeWord_familyF x 0x07, decodeWord_familyF x 0x15, decodeWord_familyF x 0x18, ?readDT, ?writeDT, ?writeST⟩
  case readDT => exact exists_next_of_exec_setReg_advance (exec_ldVxDt x s)
  case writeDT => rw [exec_ldDtVx, s.advance_setDT]
  case writeST => rw [exec_ldStVx, s.advance_setST]

end Sys2Proof.Machine
end

section
/-! PROOFS. The host's `TICK`, `KEY_UP` and acknowledgements (spec/60_exceptions.md). -/

namespace Sys2Proof.Machine

/-! ### One timer counted down (R192) -/

theorem toNat_countDown_add_one {t : Byte} (h : 0 < t.toNat) : (countDown t).toNat + 1 = t.toNat := by
  rw [toNat_countDown, Nat.sub_add_cancel h]

theorem countDown_zero : countDown 0 = 0 := rfl

/-! ### `TICK`, element by element (R192) -/

theorem State.tick_eq (s : State) :
    s.tick = { s with DT := countDown s.DT, ST := countDown s.ST, soundFlag := s.soundFlag || s.ST == 1 } := rfl

/-- The tick that takes `ST` from 1 to 0 sets `soundFlag`, whatever it was. -/
theorem State.tick_soundFlag_of_eq_one {s : State} (h : s.ST.toNat = 1) : s.tick.soundFlag = true := by
  have hST : s.ST = 1 := BitVec.eq_of_toNat_eq h
  rw [s.tick_eq, hST, beq_self_eq_true, Bool.or_true]

/-- Any other tick leaves `soundFlag` as it was. -/
theorem State.tick_soundFlag_of_ne_one {s : State} (h : s.ST.toNat ≠ 1) : s.tick.soundFlag = s.soundFlag := by
  have hST : s.ST ≠ 1 := fun h1 => h (congrArg BitVec.toNat h1)
  rw [s.tick_eq, beq_false_of_ne hST, Bool.or_false]

/-- Settles O53: `TICK` counts each timer down by `countDown` and writes `soundFlag` on the edge of `ST` only. -/
theorem tickCountsBothTimersDown : Obligations.TickCountsBothTimersDown := by
  intro s
  refine ⟨s.tick, rfl, toNat_countDown_add_one, ?stopDT, toNat_countDown_add_one, ?stopST,
    State.tick_soundFlag_of_eq_one, State.tick_soundFlag_of_ne_one, rfl⟩
  case stopDT => intro h; rw [s.tick_eq, h, countDown_zero]
  case stopST => intro h; rw [s.tick_eq, h, countDown_zero]

/-! ### `KEY_UP` (R194) -/

/-- Reading a key after one key was written. -/
theorem State.getElem_keys_setKey (s : State) (k j : Key) (v : Bool) :
    (s.setKey k v).keys[j] = if j = k then v else s.keys[j] := by
  simp only [State.setKey_keys, Fin.getElem_fin, Vector.getElem_set, Fin.val_inj, eq_comm (a := k)]

/-- Settles O56: each of the three operations is one update of one element, `KEY_UP` of the one key. -/
theorem keyUpAndAcknowledgeClearOneBit : Obligations.KeyUpAndAcknowledgeClearOneBit := by
  intro s k
  exact ⟨⟨s.keyUp k, rfl, fun j => s.getElem_keys_setKey k j false, rfl⟩, rfl, rfl⟩

end Sys2Proof.Machine
end

section
/-! PROOFS. The decoder reads back the encoder (spec/30_encoding.md R64). -/

namespace Sys2Proof

open Sys2Proof.Machine

/-! ### Words of the formats, family by family -/

theorem decodeWord_call (nnn : Addr12) : decodeWord (formatA 0x2 nnn) = some (.call nnn) := by
  rw [decodeWord, opOf_formatA, nnnOf_formatA]
  rfl

theorem decodeWord_rnd (x : Reg) (nn : Byte) : decodeWord (formatXK 0xC x nn) = some (.rnd x nn) := by
  rw [decodeWord, opOf_formatXK, xOf_formatXK, nnOf_formatXK]
  rfl

theorem decodeWord_drw (x y : Reg) (n : Fin 16) : decodeWord (formatXYN 0xD x y n) = some (.drw x y n) := by
  rw [decodeWord, opOf_formatXYN, xOf_formatXYN, yOf_formatXYN, nOf_formatXYN]
  rfl

/-- A word of family E decodes by its low byte. -/
theorem decodeWord_familyE (x : Reg) (nn : Byte) : decodeWord (formatXK 0xE x nn) = decodeFamilyE x nn.toNat := by
  rw [decodeWord, opOf_formatXK, xOf_formatXK, nnOf_formatXK]
  rfl

/-! ### Every instruction -/

/-- The decoder reads every instruction from the word the encoder gives it, every operand at every value. -/
theorem decodeWord_encode (i : Instr) : decodeWord (encode i) = some i := by
  cases i with
  | cls => rfl
  | ret => rfl
  | jp nnn => exact decodeWord_jp nnn
  | call nnn => exact decodeWord_call nnn
  | seImm x nn => exact decodeWord_seImm x nn
  | sneImm x nn => exact decodeWord_sneImm x nn
  | seReg x y => exact decodeWord_seReg x y
  | sneReg x y => exact decodeWord_sneReg x y
  | ldImm x nn => exact decodeWord_ldImm x nn
  | addImm x nn => exact decodeWord_addImm x nn
  | ldI nnn => exact decodeWord_ldI nnn
  | jpV0 nnn => exact decodeWord_jpV0 nnn
  | rnd x nn => exact decodeWord_rnd x nn
  | drw x y n => exact decodeWord_drw x y n
  | ldReg x y | or x y | and x y | xor x y | addReg x y | sub x y | shr x y | subn x y | shl x y =>
    exact decodeWord_family8 x y _
  | skp x | sknp x => exact decodeWord_familyE x _
  | ldVxDt x | ldVxK x | ldDtVx x | ldStVx x | addI x | ldF x | ldB x | ldMemV x | ldVMem x =>
    exact decodeWord_familyF x _

/-- Settles O1: the two bytes put together are the word of the instruction, which the decoder reads back. -/
theorem decodeReadsEveryEncoding : Obligations.DecodeReadsEveryEncoding := by
  intro i rest
  rw [encodeBytes, bytesOfWord, List.cons_append, List.cons_append, List.nil_append, decodeBytes,
    wordOfBytes_bytes, decodeWord_encode]

end Sys2Proof
end

section
/-! PROOFS. What an instruction can do, said once: it meets a stack error, or it writes its own elements and moves `PC`
by the table of R71. Every statement about all instructions is read off this. -/

namespace Sys2Proof.Machine

open Sys2Proof.Claims

/-! ### The update of each instruction, `PC` apart -/

/-- `CALL`'s and `RET`'s updates of the return stack, with the depth kept within 0..16 when there is no slot. -/
def State.pushed (s : State) : State :=
  s.setStack (s.stack.setIfInBounds s.SP.val s.next) ⟨min (s.SP.val + 1) 16, by omega⟩

/-- See `State.pushed`. -/
def State.popped (s : State) : State := s.setStack s.stack ⟨s.SP.val - 1, by omega⟩

/-- What an instruction writes beside `PC` (the rows of R26). -/
def written (i : Instr) (s : State) : State :=
  match i with
  | .cls => (s.setDisplay (Vector.replicate 32 0)).setDrawFlag true
  | .ret => s.popped
  | .call _ => s.pushed
  | .ldImm x nn => s.setReg x nn
  | .addImm x nn => s.setReg x (s.reg x + nn)
  | .ldReg x y => s.setReg x (s.reg y)
  | .or x y => s.setReg x (s.reg x ||| s.reg y)
  | .and x y => s.setReg x (s.reg x &&& s.reg y)
  | .xor x y => s.setReg x (s.reg x ^^^ s.reg y)
  | .addReg x y => s.writeResult x (s.reg x + s.reg y) (carry (s.reg x) (s.reg y))
  | .sub x y => s.writeResult x (s.reg x - s.reg y) (noBorrow (s.reg x) (s.reg y))
  | .shr x _ => s.writeResult x (s.reg x >>> 1) (lowBit (s.reg x))
  | .subn x y => s.writeResult x (s.reg y - s.reg x) (noBorrow (s.reg y) (s.reg x))
  | .shl x _ => s.writeResult x (s.reg x <<< 1) (highBit (s.reg x))
  | .ldI nnn => s.setI (zext16 nnn)
  | .rnd x nn => (s.setReg x (s.rnd &&& nn)).freshRnd
  | .drw x y n => s.drawMask (s.spriteMask (startColumn (s.reg x)) (startRow (s.reg y)) n.val)
  | .ldVxDt x => s.setReg x s.DT
  | .ldVxK x => s.setWait true x
  | .ldDtVx x => s.setDT (s.reg x)
  | .ldStVx x => s.setST (s.reg x)
  | .addI x => s.setI (s.I + zext16 (s.reg x))
  | .ldF x => s.setI (glyphAddr (s.reg x))
  | .ldB x => s.storeBytes s.I (decimalDigits (s.reg x))
  | .ldMemV x => s.storeBytes s.I (s.regsUpTo x)
  | .ldVMem x => s.setV (s.loadedRegs x)
  | .jp _ | .jpV0 _ | .seImm _ _ | .sneImm _ _ | .seReg _ _ | .sneReg _ _ | .skp _ | .sknp _ => s

/-- The instruction meets no stack error (R182, R183). -/
def StackAllows (i : Instr) (s : State) : Prop :=
  match i with
  | .call _ => s.SP.val < 16
  | .ret => s.SP.val ≠ 0
  | _ => True

theorem stackAllows_congr {i : Instr} {s t : State} (hSP : t.SP = s.SP) (h : StackAllows i s) : StackAllows i t := by
  cases i with
  | call nnn => exact (congrArg (fun d : Fin 17 => d.val < 16) hSP).mpr h
  | ret => exact (congrArg (fun d : Fin 17 => d.val ≠ 0) hSP).mpr h
  | _ => trivial

@[simp] theorem written_PC (i : Instr) (s : State) : (written i s).PC = s.PC := by
  cases i <;> simp [written, State.pushed, State.popped, State.writeResult, State.setFlag, State.drawMask]

/-! ### `PC` by the table of R71 -/

theorem State.advance_eq_of_PC_eq {s t : State} (h : t.PC = s.PC) : t.advance = t.setPC (nextPC s) := by
  rw [← s.next_eq_nextPC, State.next, ← h]
  rfl

theorem State.skipIf_eq_setPC (s : State) {c : Bool} {p : Prop} [Decidable p] (h : c = true ↔ p) :
    s.skipIf c = s.setPC (if p then skipPC s else nextPC s) := s.skipIf_of_iff h

/-- The key a register names, read from the key states as a list (R150, D14). -/
theorem State.getElem_keyOf (s : State) (v : Byte) :
    s.keys[keyOf v] = s.keys.toList.getD (v.toNat % 16) false := by
  have h : v.toNat % 16 < 16 := Nat.mod_lt _ (by decide)
  simp [keyOf, List.getD, h]

/-- The slot a `RET` pops, read from the slots as a list (R81). -/
theorem State.getElem_top (s : State) (h : s.SP.val - 1 < 16) :
    s.stack[s.SP.val - 1] = s.stack.toList.getD (s.SP.val - 1) 0 := by
  simp [List.getD, h]

theorem zext16_add_zext16 (nnn : Addr12) (b : Byte) :
    zext16 nnn + zext16 b = BitVec.ofNat 16 (nnn.toNat + b.toNat) := by
  rw [← toNat_zext16_add_zext16, BitVec.ofNat_toNat, BitVec.setWidth_eq]

/-! ### Completion and errors of every instruction -/

theorem exec_skp (x : Reg) (s : State) : exec (.skp x) s = .next (s.skipIf s.keys[keyOf (s.reg x)]) := rfl

theorem exec_sknp (x : Reg) (s : State) : exec (.sknp x) s = .next (s.skipIf (!s.keys[keyOf (s.reg x)])) := rfl

theorem exec_ret_of_ne {s : State} (h : s.SP.val ≠ 0) :
    exec .ret s = .next (s.popped.setPC (pcAfter .ret s)) := by
  rw [exec, execRet, s.pop_of_ne h, pcAfter, ← s.getElem_top]
  rfl

theorem State.pushed_of_lt {s : State} (h : s.SP.val < 16) :
    s.pushed = s.setStack (s.stack.set s.SP.val s.next) ⟨s.SP.val + 1, by omega⟩ := by
  simp [State.pushed, Vector.setIfInBounds, Vector.set, Array.setIfInBounds, h]

theorem exec_call_of_lt {s : State} (nnn : Addr12) (h : s.SP.val < 16) :
    exec (.call nnn) s = .next (s.pushed.setPC (pcAfter (.call nnn) s)) := by
  rw [exec, execCall, s.push_of_lt s.next h, State.pushed_of_lt h, pcAfter, zext16_eq_ofNat]

/-- An instruction that only falls through to `NEXT` after its update. -/
theorem exec_of_advance {i : Instr} {s : State} (h : exec i s = .next (written i s).advance)
    (hpc : pcAfter i s = nextPC s) : exec i s = .next ((written i s).setPC (pcAfter i s)) := by
  rw [h, hpc, State.advance_eq_of_PC_eq (written_PC i s)]

/-- An instruction that meets no stack error completes: its update, then `PC` by the table of R71. -/
theorem exec_of_stackAllows {i : Instr} {s : State} (h : StackAllows i s) :
    exec i s = .next ((written i s).setPC (pcAfter i s)) := by
  cases i with
  | ret => exact exec_ret_of_ne h
  | call nnn => exact exec_call_of_lt nnn h
  | jp nnn => rw [exec_jp, zext16_eq_ofNat]; rfl
  | jpV0 nnn => rw [exec_jpV0, zext16_add_zext16]; rfl
  | seImm x nn => rw [exec_seImm, s.skipIf_eq_setPC beq_iff_eq]; rfl
  | sneImm x nn => rw [exec_sneImm, s.skipIf_eq_setPC bne_iff_ne]; rfl
  | seReg x y => rw [exec_seReg, s.skipIf_eq_setPC beq_iff_eq]; rfl
  | sneReg x y => rw [exec_sneReg, s.skipIf_eq_setPC bne_iff_ne]; rfl
  | skp x => rw [exec_skp, s.getElem_keyOf, s.skipIf_eq_setPC Iff.rfl]; rfl
  | sknp x => rw [exec_sknp, s.getElem_keyOf, s.skipIf_eq_setPC (Iff.of_eq (Bool.not_eq_true' _))]; rfl
  | ldVxK x => rfl
  | _ => exact exec_of_advance rfl rfl

theorem exec_call_full {s : State} (nnn : Addr12) (h : s.SP.val = 16) :
    exec (.call nnn) s = .fault (.stackOverflow (encode (.call nnn))) := by
  rw [exec, execCall, s.push_full s.next h, raise]

theorem exec_ret_empty {s : State} (h : s.SP.val = 0) :
    exec .ret s = .fault (.stackUnderflow (encode .ret)) := by
  rw [exec, execRet, s.pop_empty h, raise]

/-- The only instructions that can meet an error are `CALL` on a full and `RET` on an empty stack (R182, R183). -/
theorem not_stackAllows_iff (i : Instr) (s : State) :
    ¬ StackAllows i s ↔ (∃ nnn, i = .call nnn ∧ s.SP.val = 16) ∨ (i = .ret ∧ s.SP.val = 0) := by
  have hSP : s.SP.val < 17 := s.SP.isLt
  cases i with
  | call nnn =>
    have h : ¬ s.SP.val < 16 ↔ s.SP.val = 16 := by omega
    simpa [StackAllows] using h
  | ret => simp [StackAllows]
  | _ => simp [StackAllows]

/-- What `exec` can answer: the instruction completes, or it is a `CALL` or `RET` that meets its stack error. -/
theorem exec_cases (i : Instr) (s : State) :
    (StackAllows i s ∧ exec i s = .next ((written i s).setPC (pcAfter i s))) ∨
      (∃ nnn, i = .call nnn ∧ s.SP.val = 16 ∧ exec i s = .fault (.stackOverflow (encode i))) ∨
        (i = .ret ∧ s.SP.val = 0 ∧ exec i s = .fault (.stackUnderflow (encode i))) := by
  by_cases h : StackAllows i s
  · exact .inl ⟨h, exec_of_stackAllows h⟩
  · obtain ⟨nnn, rfl, hfull⟩ | ⟨rfl, hempty⟩ := (not_stackAllows_iff i s).mp h
    · exact .inr (.inl ⟨nnn, rfl, hfull, exec_call_full nnn hfull⟩)
    · exact .inr (.inr ⟨rfl, hempty, exec_ret_empty hempty⟩)

/-- The next state of an instruction that completes. -/
theorem exec_next {i : Instr} {s t : State} (h : exec i s = .next t) :
    StackAllows i s ∧ t = (written i s).setPC (pcAfter i s) := by
  obtain ⟨hallow, hexec⟩ | ⟨_, -, -, hexec⟩ | ⟨-, -, hexec⟩ := exec_cases i s <;> rw [hexec] at h
  · exact ⟨hallow, (Host.Outcome.next.inj h).symm⟩
  · cases h
  · cases h

/-! ### What each update leaves alone -/

/-- The bytes an instruction stores at `I` and up (R166, R167). -/
def storedBytes (i : Instr) (s : State) : List Byte :=
  match i with
  | .ldB x => decimalDigits (s.reg x)
  | .ldMemV x => s.regsUpTo x
  | _ => []

/-- Memory after an instruction is memory after its block store. -/
theorem written_mem (i : Instr) (s : State) : (written i s).mem = (s.storeBytes s.I (storedBytes i s)).mem := by
  cases i <;> simp [written, storedBytes, State.storeBytes, State.writeResult, State.setFlag, State.drawMask,
    State.pushed, State.popped]

/-- Only `LD_VX_K` starts a wait. -/
theorem written_wait (i : Instr) (s : State) :
    (∃ x, i = .ldVxK x) ∨ SameWait s (written i s) := by
  cases i with
  | ldVxK x => exact .inl ⟨x, rfl⟩
  | _ =>
    refine .inr ?_
    simp [SameWait, written, State.writeResult, State.setFlag, State.drawMask, State.pushed, State.popped]

end Sys2Proof.Machine
end

section
/-! PROOFS. The invariant (spec/10_state.md R21, log 8): canonical memory, and a wait that stands at its `LD_VX_K`. -/

namespace Sys2Proof.Machine

open Sys2Proof.Safety Sys2Proof.Claims

/-! ### STEP -/

/-- Every instruction writes memory by a block store, which keeps the canonical form. -/
theorem memoryCanonical_exec {i : Instr} {s t : State} (hs : MemoryCanonical s) (h : exec i s = .next t) :
    MemoryCanonical t := by
  obtain ⟨-, rfl⟩ := exec_next h
  rw [MemoryCanonical, State.setPC_mem, written_mem]
  exact State.storeBytes_wf hs s.I (storedBytes i s)

theorem memoryCanonical_step {s t : State} (hs : MemoryCanonical s) (h : step s = .next t) : MemoryCanonical t := by
  obtain ⟨-, rfl⟩ | ⟨i, -, -, hexec⟩ := step_cases h
  · exact hs
  · exact memoryCanonical_exec hs hexec

/-- An instruction run by a block that was ready leaves it ready, or is the `LD_VX_K` that still stands at `PC`. -/
theorem waitsAtKeyWait_exec {i : Instr} {s t : State} (hw : s.waiting = false) (hd : decodeWord s.fetchWord = some i)
    (h : exec i s = .next t) : WaitsAtKeyWait t := by
  obtain ⟨x, rfl⟩ | ⟨hready, -⟩ := written_wait i s
  · cases h
    exact fun _ => hd
  · obtain ⟨-, rfl⟩ := exec_next h
    intro hwait
    rw [State.setPC_waiting, hready, hw] at hwait
    cases hwait

/-- Settles O48: a STEP that waits changes nothing; one that runs an instruction keeps memory canonical and waits only
at the `LD_VX_K` it ran. -/
theorem stepKeepsTheInvariant : Obligations.StepKeepsTheInvariant := by
  intro s t ⟨hmem, hwait⟩ h
  refine ⟨memoryCanonical_step hmem h, ?_⟩
  obtain ⟨-, rfl⟩ | ⟨i, hready, hdecode, hexec⟩ := step_cases h
  · exact hwait
  · exact waitsAtKeyWait_exec hready hdecode hexec

/-! ### The other operations -/

/-- The invariant reads memory, `PC` and the wait state only. -/
theorem inv_congr {s t : State} (hmem : t.mem = s.mem) (hpc : t.PC = s.PC) (hwait : SameWait s t) (h : Inv s) :
    Inv t := by
  obtain ⟨hw, hr⟩ := hwait
  obtain ⟨hcanon, hat⟩ := h
  refine ⟨by rwa [MemoryCanonical, hmem], ?_⟩
  rw [WaitsAtKeyWait, hw, hr, State.fetchWord_congr hmem (congrArg ea hpc)]
  exact hat

/-- A block that does not await input has only its memory to keep. -/
theorem inv_of_ready {s : State} (hmem : MemoryCanonical s) (hw : s.waiting = false) : Inv s :=
  ⟨hmem, fun h => absurd (hw.symm.trans h) (by decide)⟩

theorem State.keyDown_mem (s : State) (k : Key) : (s.keyDown k).mem = s.mem := by
  rw [State.keyDown]
  split <;> rfl

theorem inv_keyDown {s : State} (k : Key) (h : Inv s) : Inv (s.keyDown k) := by
  cases hw : s.waiting with
  | true => rw [State.keyDown_waiting hw]; exact inv_of_ready h.1 rfl
  | false => rw [State.keyDown_ready hw]; exact inv_of_ready h.1 hw

/-- STEP with an input byte keeps the invariant, error or not (R186). -/
theorem inv_after_step {s : State} (r : Byte) (h : Inv s) : Inv (after (.step r) s) := by
  obtain hnext | heq := after_cases (.step r) s
  · exact stepKeepsTheInvariant _ _ (inv_congr (t := s.withRnd r) rfl rfl ⟨rfl, rfl⟩ h) hnext
  · rwa [heq]

theorem inv_after {op : Operation} {s : State} (hop : ∀ bytes, op ≠ .load bytes) (h : Inv s) : Inv (after op s) := by
  cases op with
  | reset => exact inv_of_ready rfl rfl
  | load bytes => exact absurd rfl (hop bytes)
  | step r => exact inv_after_step r h
  | keyDown k => exact inv_keyDown k h
  | tick | keyUp k | ackDraw | ackSound => exact inv_congr (s := s) rfl rfl ⟨rfl, rfl⟩ h

theorem memoryCanonical_after_load {s : State} (bytes : List Byte) (h : MemoryCanonical s) :
    MemoryCanonical (after (.load bytes) s) := by
  obtain ⟨-, hload⟩ | ⟨-, hload⟩ := s.load_cases bytes <;> rw [after, perform, hload]
  · exact h
  · exact State.storeBytes_wf h 0x200 bytes

/-- Every operation keeps memory canonical, whatever the wait state: the step of the induction over a run. -/
theorem memoryCanonical_after (op : Operation) (s : State) (h : MemoryCanonical s) : MemoryCanonical (after op s) := by
  cases op with
  | reset => rfl
  | load bytes => exact memoryCanonical_after_load bytes h
  | step r =>
    obtain hnext | heq := after_cases (.step r) s
    · exact memoryCanonical_step (s := s.withRnd r) h hnext
    · rwa [heq]
  | keyDown k => exact (congrArg Memory.wf (s.keyDown_mem k)).trans h
  | tick | keyUp k | ackDraw | ackSound => exact h

/-- Settles O49: each operation but `LOAD` keeps the invariant, and all of them keep memory canonical from RESET on. -/
theorem everyScheduleKeepsTheInvariant : Obligations.EveryScheduleKeepsTheInvariant := by
  refine ⟨fun op s => inv_after, fun bytes s => memoryCanonical_after_load bytes, ?_⟩
  rintro s ⟨g, ops, rfl⟩
  exact runOps_induction memoryCanonical_after ops (Memory.wf_reset g)

/-- Settles O47: after RESET the memory lists no cell and the block is ready. -/
theorem resetMeetsTheInvariant : Obligations.ResetMeetsTheInvariant :=
  ⟨fun g => inv_of_ready (Memory.wf_reset g) rfl, defaultGlyphs, rfl⟩

end Sys2Proof.Machine
end

section
/-! PROOFS. The decoder, the encoder and the opcode map are three readings of one table (spec/30_encoding.md R64, R65,
R66). -/

namespace Sys2Proof

/-! ### A word of a family in its format (R61, R62) -/

theorem op_eq_of_opOf {w : Word} {op : BitVec 4} (h : opOf w = op.toNat) : w.extractLsb' 12 4 = op :=
  BitVec.eq_of_toNat_eq h

theorem formatA_of_opOf {w : Word} (op : BitVec 4) (h : opOf w = op.toNat) : formatA op (nnnOf w) = w := by
  rw [← op_eq_of_opOf h, formatA_fields]

theorem formatXK_of_opOf {w : Word} (op : BitVec 4) (h : opOf w = op.toNat) : formatXK op (xOf w) (nnOf w) = w := by
  rw [← op_eq_of_opOf h, formatXK_fields]

theorem formatXYN_of_opOf {w : Word} (op : BitVec 4) (h : opOf w = op.toNat) :
    formatXYN op (xOf w) (yOf w) (nOf w) = w := by
  rw [← op_eq_of_opOf h, formatXYN_fields]

/-! ### The families that are decoded by more than their first nibble -/

theorem encode_decodeFamily0 {w : Word} {i : Instr} (h : decodeFamily0 w = some i) : encode i = w := by
  unfold decodeFamily0 at h
  split at h
  · cases h; exact Eq.symm ‹_›
  · split at h
    · cases h; exact Eq.symm ‹_›
    · cases h

theorem encode_decodeFamily8 {x y : Reg} {n : Fin 16} {i : Instr} (h : decodeFamily8 x y n.val = some i) :
    encode i = formatXYN 0x8 x y n := by
  unfold decodeFamily8 at h
  split at h <;> cases h <;> exact congrArg (formatXYN 0x8 x y) (Fin.ext (Eq.symm ‹_›))

theorem encode_decodeFamilyE {x : Reg} {nn : Byte} {i : Instr} (h : decodeFamilyE x nn.toNat = some i) :
    encode i = formatXK 0xE x nn := by
  unfold decodeFamilyE at h
  split at h <;> cases h <;> exact congrArg (formatXK 0xE x) (BitVec.eq_of_toNat_eq (Eq.symm ‹_›))

theorem encode_decodeFamilyF {x : Reg} {nn : Byte} {i : Instr} (h : decodeFamilyF x nn.toNat = some i) :
    encode i = formatXK 0xF x nn := by
  unfold decodeFamilyF at h
  split at h <;> cases h <;> exact congrArg (formatXK 0xF x) (BitVec.eq_of_toNat_eq (Eq.symm ‹_›))

/-- A word whose last nibble is 0, in families 5 and 9. -/
theorem formatXYN_of_opOf_zero {w : Word} (op : BitVec 4) (h : opOf w = op.toNat) (hn : nOf w = 0) :
    formatXYN op (xOf w) (yOf w) 0 = w := by
  rw [← hn, formatXYN_of_opOf op h]

/-- A word that decodes is the encoding of what it decodes to. -/
theorem encode_of_decodeWord {w : Word} {i : Instr} (h : decodeWord w = some i) : encode i = w := by
  unfold decodeWord at h
  split at h <;> rename_i hop
  · exact encode_decodeFamily0 h
  · cases h; exact formatA_of_opOf 0x1 hop
  · cases h; exact formatA_of_opOf 0x2 hop
  · cases h; exact formatXK_of_opOf 0x3 hop
  · cases h; exact formatXK_of_opOf 0x4 hop
  · split at h
    · cases h; exact formatXYN_of_opOf_zero 0x5 hop ‹_›
    · cases h
  · cases h; exact formatXK_of_opOf 0x6 hop
  · cases h; exact formatXK_of_opOf 0x7 hop
  · exact (encode_decodeFamily8 h).trans (formatXYN_of_opOf 0x8 hop)
  · split at h
    · cases h; exact formatXYN_of_opOf_zero 0x9 hop ‹_›
    · cases h
  · cases h; exact formatA_of_opOf 0xA hop
  · cases h; exact formatA_of_opOf 0xB hop
  · cases h; exact formatXK_of_opOf 0xC hop
  · cases h; exact formatXYN_of_opOf 0xD hop
  · exact (encode_decodeFamilyE h).trans (formatXK_of_opOf 0xE hop)
  · exact (encode_decodeFamilyF h).trans (formatXK_of_opOf 0xF hop)
  · cases h

/-- Settles O2: each branch of the decoder keeps every field of the word. -/
theorem encodingRebuildsEveryDecodedWord : Obligations.EncodingRebuildsEveryDecodedWord :=
  fun _ _ => encode_of_decodeWord

/-! ### The rows of R65 -/

/-- Every instruction's word selects the row of its mnemonic. -/
theorem row_selects_encode (i : Instr) : i.mnemonic.row.selects (encode i) = true := by
  cases i with
  | cls => exact Laws.OpcodeRow.cls
  | ret => exact Laws.OpcodeRow.ret
  | jp nnn => exact Laws.OpcodeRow.jp nnn
  | call nnn => exact Laws.OpcodeRow.call nnn
  | seImm x nn => exact Laws.OpcodeRow.seImm x nn
  | sneImm x nn => exact Laws.OpcodeRow.sneImm x nn
  | seReg x y => exact Laws.OpcodeRow.seReg x y
  | sneReg x y => exact Laws.OpcodeRow.sneReg x y
  | ldImm x nn => exact Laws.OpcodeRow.ldImm x nn
  | addImm x nn => exact Laws.OpcodeRow.addImm x nn
  | ldReg x y => exact Laws.OpcodeRow.ldReg x y
  | or x y => exact Laws.OpcodeRow.or x y
  | and x y => exact Laws.OpcodeRow.and x y
  | xor x y => exact Laws.OpcodeRow.xor x y
  | addReg x y => exact Laws.OpcodeRow.addReg x y
  | sub x y => exact Laws.OpcodeRow.sub x y
  | shr x y => exact Laws.OpcodeRow.shr x y
  | subn x y => exact Laws.OpcodeRow.subn x y
  | shl x y => exact Laws.OpcodeRow.shl x y
  | ldI nnn => exact Laws.OpcodeRow.ldI nnn
  | jpV0 nnn => exact Laws.OpcodeRow.jpV0 nnn
  | rnd x nn => exact Laws.OpcodeRow.rnd x nn
  | drw x y n => exact Laws.OpcodeRow.drw x y n
  | skp x => exact Laws.OpcodeRow.skp x
  | sknp x => exact Laws.OpcodeRow.sknp x
  | ldVxDt x => exact Laws.OpcodeRow.ldVxDt x
  | ldVxK x => exact Laws.OpcodeRow.ldVxK x
  | ldDtVx x => exact Laws.OpcodeRow.ldDtVx x
  | ldStVx x => exact Laws.OpcodeRow.ldStVx x
  | addI x => exact Laws.OpcodeRow.addI x
  | ldF x => exact Laws.OpcodeRow.ldF x
  | ldB x => exact Laws.OpcodeRow.ldB x
  | ldMemV x => exact Laws.OpcodeRow.ldMemV x
  | ldVMem x => exact Laws.OpcodeRow.ldVMem x

/-- The instruction of a row with the fields of a word. -/
def Mnemonic.ofFields (m : Mnemonic) (w : Word) : Instr :=
  match m with
  | .cls => .cls | .ret => .ret | .jp => .jp (nnnOf w) | .call => .call (nnnOf w)
  | .seImm => .seImm (xOf w) (nnOf w) | .sneImm => .sneImm (xOf w) (nnOf w)
  | .seReg => .seReg (xOf w) (yOf w) | .sneReg => .sneReg (xOf w) (yOf w)
  | .ldImm => .ldImm (xOf w) (nnOf w) | .addImm => .addImm (xOf w) (nnOf w)
  | .ldReg => .ldReg (xOf w) (yOf w) | .or => .or (xOf w) (yOf w) | .and => .and (xOf w) (yOf w)
  | .xor => .xor (xOf w) (yOf w) | .addReg => .addReg (xOf w) (yOf w) | .sub => .sub (xOf w) (yOf w)
  | .shr => .shr (xOf w) (yOf w) | .subn => .subn (xOf w) (yOf w) | .shl => .shl (xOf w) (yOf w)
  | .ldI => .ldI (nnnOf w) | .jpV0 => .jpV0 (nnnOf w) | .rnd => .rnd (xOf w) (nnOf w)
  | .drw => .drw (xOf w) (yOf w) (nOf w) | .skp => .skp (xOf w) | .sknp => .sknp (xOf w)
  | .ldVxDt => .ldVxDt (xOf w) | .ldVxK => .ldVxK (xOf w) | .ldDtVx => .ldDtVx (xOf w)
  | .ldStVx => .ldStVx (xOf w) | .addI => .addI (xOf w) | .ldF => .ldF (xOf w) | .ldB => .ldB (xOf w)
  | .ldMemV => .ldMemV (xOf w) | .ldVMem => .ldVMem (xOf w)

@[simp] theorem Mnemonic.mnemonic_ofFields (m : Mnemonic) (w : Word) : (m.ofFields w).mnemonic = m := by
  cases m <;> rfl

/-! A word under a mask of R65 gives the fixed bits; the fields it leaves out are the word's own. -/

theorem formatA_of_mask {w : Word} (op : BitVec 4) (h : w &&& 0xF000 = formatA op 0) : formatA op (nnnOf w) = w := by
  refine formatA_of_opOf op ?_
  rw [← formatA_fields w, formatA_mask] at h
  exact (opOf_formatA _ 0).symm.trans ((congrArg opOf h).trans (opOf_formatA op 0))

theorem formatXK_of_mask {w : Word} (op : BitVec 4) (h : w &&& 0xF000 = formatA op 0) :
    formatXK op (xOf w) (nnOf w) = w := by
  have hA := formatA_of_mask op h
  refine formatXK_of_opOf op ?_
  rw [← hA, opOf_formatA]

theorem formatXYN_of_mask {w : Word} (op : BitVec 4) (h : w &&& 0xF000 = formatA op 0) :
    formatXYN op (xOf w) (yOf w) (nOf w) = w := by
  have hA := formatA_of_mask op h
  refine formatXYN_of_opOf op ?_
  rw [← hA, opOf_formatA]

theorem formatXYS_of_mask {w : Word} (op : BitVec 4) (n : Fin 16) (h : w &&& 0xF00F = formatXYN op 0 0 n) :
    formatXYN op (xOf w) (yOf w) n = w := by
  rw [← formatXYN_fields w, formatXYS_mask] at h
  have hop : opOf w = op.toNat := (opOf_formatXYN ..).symm.trans ((congrArg opOf h).trans (opOf_formatXYN ..))
  have hn : nOf w = n := by simpa using congrArg nOf h
  rw [← hn, formatXYN_of_opOf op hop]

theorem formatXS_of_mask {w : Word} (op : BitVec 4) (nn : Byte) (h : w &&& 0xF0FF = formatXK op 0 nn) :
    formatXK op (xOf w) nn = w := by
  rw [← formatXK_fields w, formatXS_mask] at h
  have hop : opOf w = op.toNat := (opOf_formatXK ..).symm.trans ((congrArg opOf h).trans (opOf_formatXK ..))
  have hnn : nnOf w = nn := by simpa using congrArg nnOf h
  rw [← hnn, formatXK_of_opOf op hop]

/-- A word that selects a row is the encoding of that row's instruction with the word's fields. -/
theorem encode_ofFields {m : Mnemonic} {w : Word} (h : m.row.selects w = true) : encode (m.ofFields w) = w := by
  have hmask : w &&& m.row.mask = m.row.pattern := beq_iff_eq.mp h
  cases m with
  | cls | ret => exact hmask.symm.trans BitVec.and_allOnes
  | jp | call | ldI | jpV0 => exact formatA_of_mask _ hmask
  | seImm | sneImm | ldImm | addImm | rnd => exact formatXK_of_mask _ hmask
  | drw => exact formatXYN_of_mask _ hmask
  | seReg | sneReg | ldReg | or | and | xor | addReg | sub | shr | subn | shl => exact formatXYS_of_mask _ _ hmask
  | _ => exact formatXS_of_mask _ _ hmask

/-- A word decodes into a row exactly when it selects it. -/
theorem decodeWord_mnemonic_iff (w : Word) (m : Mnemonic) :
    (decodeWord w).map Instr.mnemonic = some m ↔ m.row.selects w = true := by
  constructor
  · intro h
    obtain ⟨i, hdecode, rfl⟩ := Option.map_eq_some_iff.mp h
    rw [← encode_of_decodeWord hdecode]
    exact row_selects_encode i
  · intro h
    rw [← encode_ofFields h, decodeWord_encode, Option.map_some, Mnemonic.mnemonic_ofFields]

theorem Mnemonic.mem_all (m : Mnemonic) : m ∈ Mnemonic.all := by cases m <;> decide

theorem legalWord_iff (w : Word) : legalWord w = true ↔ ∃ m : Mnemonic, m.row.selects w = true := by
  simp [legalWord, Mnemonic.mem_all]

theorem decodeWord_none_iff (w : Word) : decodeWord w = none ↔ legalWord w = false := by
  rw [← Bool.not_eq_true, legalWord_iff]
  constructor
  · rintro h ⟨m, hm⟩
    rw [← decodeWord_mnemonic_iff, h] at hm
    cases hm
  · intro h
    cases hd : decodeWord w with
    | none => rfl
    | some i => exact absurd ⟨i.mnemonic, (decodeWord_mnemonic_iff w _).mp (by rw [hd]; rfl)⟩ h

/-- Settles O3: the decoder picks the row that the word selects, and none when there is none. -/
theorem decodeFollowsTheOpcodeMap : Obligations.DecodeFollowsTheOpcodeMap :=
  fun w => ⟨decodeWord_mnemonic_iff w, decodeWord_none_iff w⟩

/-- Settles O4: two rows that a word selects are both the row it decodes into. -/
theorem opcodeRowsDoNotOverlap : Obligations.OpcodeRowsDoNotOverlap := by
  intro w m m' h h'
  rw [← decodeWord_mnemonic_iff] at h h'
  exact Option.some.inj (h.symm.trans h')

/-! ### Illegal words (R66) -/

theorem decodeFamily0_none_iff (w : Word) : decodeFamily0 w = none ↔ w ≠ 0x00E0 ∧ w ≠ 0x00EE := by
  unfold decodeFamily0
  split
  · simp_all
  · split <;> simp_all

theorem decodeFamily8_none_iff (x y : Reg) (n : Fin 16) :
    decodeFamily8 x y n.val = none ↔ n.val ∈ [0x8, 0x9, 0xA, 0xB, 0xC, 0xD, 0xF] := by
  fin_cases n <;> simp [decodeFamily8]

theorem decodeFamilyE_none_iff (x : Reg) (nn : Nat) : decodeFamilyE x nn = none ↔ nn ∉ [0x9E, 0xA1] := by
  unfold decodeFamilyE
  split <;> simp_all

theorem decodeFamilyF_none_iff (x : Reg) (nn : Nat) : decodeFamilyF x nn = none ↔
    nn ∉ [0x07, 0x0A, 0x15, 0x18, 0x1E, 0x29, 0x33, 0x55, 0x65] := by
  unfold decodeFamilyF
  split <;> simp_all

/-- Settles O5: family by family, the words that the reading of the family rejects. -/
theorem illegalWordsAreTheTableOfR66 : Obligations.IllegalWordsAreTheTableOfR66 := by
  intro w
  rw [← decodeFamily0_none_iff, ← decodeFamily8_none_iff (xOf w) (yOf w), ← decodeFamilyE_none_iff (xOf w),
    ← decodeFamilyF_none_iff (xOf w)]
  have hlt : opOf w < 16 := (w.extractLsb' 12 4).isLt
  unfold decodeWord
  interval_cases opOf w <;> simp

/-- Settles O7: the words of the opcode map, decoded. -/
theorem wordsOfTheSpecDecode : Obligations.WordsOfTheSpecDecode := by
  unfold Obligations.WordsOfTheSpecDecode
  decide

end Sys2Proof
end

section
/-! PROOFS. Assembler lines (spec/30_encoding.md R69): the operands of a well-formed line land in their fields. -/

namespace Sys2Proof

/-! ### The formats as numbers -/

theorem toNat_append_eq_add {v w : Nat} (hi : BitVec v) (lo : BitVec w) :
    (hi ++ lo).toNat = hi.toNat * 2 ^ w + lo.toNat := by
  rw [BitVec.toNat_append, ← Nat.shiftLeft_add_eq_or_of_lt lo.isLt, Nat.shiftLeft_eq]

theorem toNat_formatA (op : BitVec 4) (nnn : Addr12) : (formatA op nnn).toNat = op.toNat * 4096 + nnn.toNat :=
  toNat_append_eq_add op nnn

theorem toNat_formatXK (op : BitVec 4) (x : Reg) (nn : Byte) :
    (formatXK op x nn).toNat = (op.toNat * 16 + x.val) * 256 + nn.toNat := by
  refine (toNat_append_eq_add (op ++ (BitVec.ofFin x : BitVec 4)) nn).trans ?_
  rw [toNat_append_eq_add]
  rfl

/-! ### One operand alone in its field -/

theorem place_nnn (nnn : Addr12) : BitVec.ofNat 16 nnn.toNat <<< 0 = formatA 0 nnn := by
  apply BitVec.eq_of_toNat_eq
  rw [toNat_formatA, BitVec.shiftLeft_zero, BitVec.toNat_ofNat]
  have := nnn.isLt
  simp; omega

theorem place_x (x : Reg) : BitVec.ofNat 16 x.val <<< 8 = formatXK 0 x 0 := by
  apply BitVec.eq_of_toNat_eq
  rw [toNat_formatXK]
  simp [Nat.shiftLeft_eq]; omega

theorem place_nn (nn : Byte) : BitVec.ofNat 16 nn.toNat <<< 0 = formatXK 0 0 nn := by
  apply BitVec.eq_of_toNat_eq
  rw [toNat_formatXK]
  simp; omega

theorem place_y (y : Reg) :
    BitVec.ofNat 16 y.val <<< 4 = formatXK 0 0 ((BitVec.ofFin y : BitVec 4) ++ (0 : BitVec 4)) := by
  apply BitVec.eq_of_toNat_eq
  rw [toNat_formatXK, toNat_append_eq_add]
  simp [Nat.shiftLeft_eq]; omega

theorem place_n (n : Fin 16) :
    BitVec.ofNat 16 n.val <<< 0 = formatXK 0 0 ((0 : BitVec 4) ++ (BitVec.ofFin n : BitVec 4)) := by
  apply BitVec.eq_of_toNat_eq
  rw [toNat_formatXK, toNat_append_eq_add]
  simp; omega

/-! ### Fields put side by side -/

theorem or_append_split {v w : Nat} (a c : BitVec v) (b d : BitVec w) :
    (a ++ b) ||| (c ++ d) = (a ||| c) ++ (b ||| d) := by
  ext k hk
  by_cases h : k < w <;> simp [BitVec.getElem_append, h]

theorem formatA_or_nnn (op : BitVec 4) (nnn : Addr12) : formatA op 0 ||| formatA 0 nnn = formatA op nnn :=
  (or_append_split op 0 0 nnn).trans (congrArg₂ (· ++ ·) BitVec.or_zero BitVec.zero_or)

theorem formatXK_or_x (op : BitVec 4) (x : Reg) (nn : Byte) :
    formatXK op 0 nn ||| formatXK 0 x 0 = formatXK op x nn := by
  refine (or_append_split (op ++ (0 : BitVec 4)) ((0 : BitVec 4) ++ (BitVec.ofFin x : BitVec 4)) nn 0).trans ?_
  refine congrArg₂ (· ++ ·) ((or_append_split op 0 0 _).trans ?_) BitVec.or_zero
  exact congrArg₂ (· ++ ·) BitVec.or_zero BitVec.zero_or

theorem formatXK_or_low (op : BitVec 4) (x : Reg) (nn nn' : Byte) :
    formatXK op x nn ||| formatXK 0 0 nn' = formatXK op x (nn ||| nn') := by
  refine (or_append_split (op ++ (BitVec.ofFin x : BitVec 4)) ((0 : BitVec 4) ++ (0 : BitVec 4)) nn nn').trans ?_
  refine congrArg₂ (· ++ ·) ((or_append_split op 0 _ 0).trans ?_) rfl
  exact congrArg₂ (· ++ ·) BitVec.or_zero BitVec.or_zero

/-- Two nibbles of the low byte put side by side. -/
theorem nibbles_or (y n : BitVec 4) : (y ++ (0 : BitVec 4)) ||| ((0 : BitVec 4) ++ n) = y ++ n :=
  (or_append_split y 0 0 n).trans (congrArg₂ (· ++ ·) BitVec.or_zero BitVec.zero_or)

/-! ### The operands of each format -/

theorem placeFields_one (hi lo v : Nat) : placeFields [(hi, lo)] [v] = BitVec.ofNat 16 v <<< lo := BitVec.or_zero

theorem formatA_or_placeFields (op : BitVec 4) (nnn : Addr12) :
    formatA op 0 ||| placeFields fieldsA [nnn.toNat] = formatA op nnn := by
  rw [placeFields_one, place_nnn, formatA_or_nnn]

theorem formatXK_or_placeFields (op : BitVec 4) (x : Reg) (nn : Byte) :
    formatXK op 0 0 ||| placeFields fieldsXK [x.val, nn.toNat] = formatXK op x nn := by
  rw [placeFields, placeFields_one, place_x, place_nn, ← BitVec.or_assoc, formatXK_or_x, formatXK_or_low]
  exact congrArg (formatXK op x) BitVec.zero_or

theorem formatXS_or_placeFields (op : BitVec 4) (x : Reg) (nn : Byte) :
    formatXK op 0 nn ||| placeFields fieldsX [x.val] = formatXK op x nn := by
  rw [placeFields_one, place_x, formatXK_or_x]

/-- `SHR` and `SHL`, whose lines spell no `y` (R67, R69). -/
theorem formatXYS_or_placeFields_x (op : BitVec 4) (x n : Fin 16) :
    formatXYN op 0 0 n ||| placeFields fieldsX [x.val] = formatXYN op x 0 n := by
  rw [formatXYN_eq, formatXS_or_placeFields, formatXYN_eq]

theorem formatXYS_or_placeFields (op : BitVec 4) (x y n : Fin 16) :
    formatXYN op 0 0 n ||| placeFields fieldsXY [x.val, y.val] = formatXYN op x y n := by
  rw [placeFields, placeFields_one, place_x, place_y, ← BitVec.or_assoc, formatXYN_eq, formatXK_or_x,
    formatXK_or_low, BitVec.or_comm, formatXYN_eq]
  exact congrArg (formatXK op x) (nibbles_or (BitVec.ofFin y) (BitVec.ofFin n))

theorem formatXYN_or_placeFields (op : BitVec 4) (x y n : Fin 16) :
    formatXYN op 0 0 0 ||| placeFields fieldsXYN [x.val, y.val, n.val] = formatXYN op x y n := by
  rw [placeFields, placeFields, placeFields_one, place_x, place_y, place_n, ← BitVec.or_assoc, ← BitVec.or_assoc,
    formatXYN_eq, formatXK_or_x, formatXK_or_low, formatXK_or_low, formatXYN_eq]
  exact congrArg (formatXK op x) ((congrArg (· ||| _) BitVec.zero_or).trans (nibbles_or (.ofFin y) (.ofFin n)))

/-! ### Operands that fit their fields (R69) -/

theorem operandsFit_nil {vs : List Nat} (h : operandsFit [] vs = true) : vs = [] := by
  cases vs with
  | nil => rfl
  | cons v vs => cases h

theorem operandsFit_cons {hi lo : Nat} {fs : List (Nat × Nat)} {vs : List Nat}
    (h : operandsFit ((hi, lo) :: fs) vs = true) :
    ∃ v rest, vs = v :: rest ∧ v < 2 ^ (hi - lo + 1) ∧ operandsFit fs rest = true := by
  cases vs with
  | nil => cases h
  | cons v rest =>
    rw [operandsFit, Bool.and_eq_true, decide_eq_true_eq] at h
    exact ⟨v, rest, rfl, h⟩

theorem operandsFit_A {vs : List Nat} (h : operandsFit fieldsA vs = true) : ∃ nnn : Addr12, vs = [nnn.toNat] := by
  obtain ⟨v, _, rfl, hv, hrest⟩ := operandsFit_cons h
  obtain rfl := operandsFit_nil hrest
  exact ⟨BitVec.ofNatLT v hv, rfl⟩

theorem operandsFit_X {vs : List Nat} (h : operandsFit fieldsX vs = true) : ∃ x : Reg, vs = [x.val] := by
  obtain ⟨x, _, rfl, hx, hrest⟩ := operandsFit_cons h
  obtain rfl := operandsFit_nil hrest
  exact ⟨⟨x, hx⟩, rfl⟩

theorem operandsFit_XK {vs : List Nat} (h : operandsFit fieldsXK vs = true) :
    ∃ (x : Reg) (nn : Byte), vs = [x.val, nn.toNat] := by
  obtain ⟨x, _, rfl, hx, hrest⟩ := operandsFit_cons h
  obtain ⟨v, _, rfl, hv, hrest⟩ := operandsFit_cons hrest
  obtain rfl := operandsFit_nil hrest
  exact ⟨⟨x, hx⟩, BitVec.ofNatLT v hv, rfl⟩

theorem operandsFit_XY {vs : List Nat} (h : operandsFit fieldsXY vs = true) : ∃ x y : Reg, vs = [x.val, y.val] := by
  obtain ⟨x, _, rfl, hx, hrest⟩ := operandsFit_cons h
  obtain ⟨y, _, rfl, hy, hrest⟩ := operandsFit_cons hrest
  obtain rfl := operandsFit_nil hrest
  exact ⟨⟨x, hx⟩, ⟨y, hy⟩, rfl⟩

theorem operandsFit_XYN {vs : List Nat} (h : operandsFit fieldsXYN vs = true) :
    ∃ x y n : Fin 16, vs = [x.val, y.val, n.val] := by
  obtain ⟨x, _, rfl, hx, hrest⟩ := operandsFit_cons h
  obtain ⟨y, _, rfl, hy, hrest⟩ := operandsFit_cons hrest
  obtain ⟨n, _, rfl, hn, hrest⟩ := operandsFit_cons hrest
  obtain rfl := operandsFit_nil hrest
  exact ⟨⟨x, hx⟩, ⟨y, hy⟩, ⟨n, hn⟩, rfl⟩

/-! ### Every line -/

/-- The line is an instruction's, and the word it assembles to is that instruction's encoding. -/
def AsmLine.SpellsInstr (l : AsmLine) : Prop := ∃ i : Instr, i.line = l ∧ encode i = l.word

/-- A line whose word selects its row and has its operands in the fields is the line of an instruction. -/
theorem spellsInstr_of_word {m : Mnemonic} {vs : List Nat} {w : Word} (hword : (AsmLine.mk m vs).word = w)
    (hmask : w &&& m.row.mask = m.row.pattern) (hops : (m.ofFields w).operands = vs) : (AsmLine.mk m vs).SpellsInstr :=
  ⟨m.ofFields w, by rw [Instr.line, Mnemonic.mnemonic_ofFields, hops],
    (encode_ofFields (beq_iff_eq.mpr hmask)).trans hword.symm⟩

/-- The fixed fields of a row: its family, and its sub-opcode as a nibble or a byte (R62). -/
def OpcodeRow.op (r : OpcodeRow) : BitVec 4 := r.pattern.extractLsb' 12 4
/-- See `OpcodeRow.op`. -/
def OpcodeRow.n (r : OpcodeRow) : Fin 16 := nOf r.pattern
/-- See `OpcodeRow.op`. -/
def OpcodeRow.nn (r : OpcodeRow) : Byte := nnOf r.pattern

/-! For each format: the row of a mnemonic is of that format, and its instruction spells that format's fields. -/

section Formats

variable {m : Mnemonic} {vs : List Nat} (hl : (AsmLine.mk m vs).wellFormed = true)
include hl

theorem spellsInstr_none (hf : m.row.fields = []) (hm : m.row.mask = 0xFFFF)
    (ho : ∀ w, (m.ofFields w).operands = []) : (AsmLine.mk m vs).SpellsInstr := by
  rw [AsmLine.wellFormed, hf] at hl
  obtain rfl := operandsFit_nil hl
  refine spellsInstr_of_word (w := m.row.pattern) ?_ (by rw [hm]; exact BitVec.and_allOnes) (ho _)
  rw [AsmLine.word, hf]
  exact BitVec.or_zero

theorem spellsInstr_A (hf : m.row.fields = fieldsA) (hm : m.row.mask = 0xF000)
    (hp : m.row.pattern = formatA m.row.op 0) (ho : ∀ w, (m.ofFields w).operands = [(nnnOf w).toNat]) :
    (AsmLine.mk m vs).SpellsInstr := by
  rw [AsmLine.wellFormed, hf] at hl
  obtain ⟨nnn, rfl⟩ := operandsFit_A hl
  refine spellsInstr_of_word (w := formatA m.row.op nnn) ?_ (by rw [hm, hp, formatA_mask]) (by rw [ho, nnnOf_formatA])
  rw [AsmLine.word, hf, hp, formatA_or_placeFields]

theorem spellsInstr_XK (hf : m.row.fields = fieldsXK) (hm : m.row.mask = 0xF000)
    (hp : m.row.pattern = formatXK m.row.op 0 0) (ho : ∀ w, (m.ofFields w).operands = [(xOf w).val, (nnOf w).toNat]) :
    (AsmLine.mk m vs).SpellsInstr := by
  rw [AsmLine.wellFormed, hf] at hl
  obtain ⟨x, nn, rfl⟩ := operandsFit_XK hl
  refine spellsInstr_of_word (w := formatXK m.row.op x nn) ?_ (by rw [hm, hp, formatXK_mask])
    (by rw [ho, xOf_formatXK, nnOf_formatXK])
  rw [AsmLine.word, hf, hp, formatXK_or_placeFields]

theorem spellsInstr_XS (hf : m.row.fields = fieldsX) (hm : m.row.mask = 0xF0FF)
    (hp : m.row.pattern = formatXK m.row.op 0 m.row.nn) (ho : ∀ w, (m.ofFields w).operands = [(xOf w).val]) :
    (AsmLine.mk m vs).SpellsInstr := by
  rw [AsmLine.wellFormed, hf] at hl
  obtain ⟨x, rfl⟩ := operandsFit_X hl
  refine spellsInstr_of_word (w := formatXK m.row.op x m.row.nn) ?_ (by rw [hm, hp, formatXS_mask])
    (by rw [ho, xOf_formatXK])
  rw [AsmLine.word, hf, hp, formatXS_or_placeFields]

theorem spellsInstr_XYS (hf : m.row.fields = fieldsXY) (hm : m.row.mask = 0xF00F)
    (hp : m.row.pattern = formatXYN m.row.op 0 0 m.row.n)
    (ho : ∀ w, (m.ofFields w).operands = [(xOf w).val, (yOf w).val]) :
    (AsmLine.mk m vs).SpellsInstr := by
  rw [AsmLine.wellFormed, hf] at hl
  obtain ⟨x, y, rfl⟩ := operandsFit_XY hl
  refine spellsInstr_of_word (w := formatXYN m.row.op x y m.row.n) ?_ (by rw [hm, hp, formatXYS_mask])
    (by rw [ho, xOf_formatXYN, yOf_formatXYN])
  rw [AsmLine.word, hf, hp, formatXYS_or_placeFields]

theorem spellsInstr_XYS_x (hf : m.row.fields = fieldsX) (hm : m.row.mask = 0xF00F)
    (hp : m.row.pattern = formatXYN m.row.op 0 0 m.row.n) (ho : ∀ w, (m.ofFields w).operands = [(xOf w).val]) :
    (AsmLine.mk m vs).SpellsInstr := by
  rw [AsmLine.wellFormed, hf] at hl
  obtain ⟨x, rfl⟩ := operandsFit_X hl
  refine spellsInstr_of_word (w := formatXYN m.row.op x 0 m.row.n) ?_ (by rw [hm, hp, formatXYS_mask])
    (by rw [ho, xOf_formatXYN])
  rw [AsmLine.word, hf, hp, formatXYS_or_placeFields_x]

theorem spellsInstr_XYN (hf : m.row.fields = fieldsXYN) (hm : m.row.mask = 0xF000)
    (hp : m.row.pattern = formatXYN m.row.op 0 0 0)
    (ho : ∀ w, (m.ofFields w).operands = [(xOf w).val, (yOf w).val, (nOf w).val]) : (AsmLine.mk m vs).SpellsInstr := by
  rw [AsmLine.wellFormed, hf] at hl
  obtain ⟨x, y, n, rfl⟩ := operandsFit_XYN hl
  refine spellsInstr_of_word (w := formatXYN m.row.op x y n) ?_ (by rw [hm, hp, formatXYN_mask])
    (by rw [ho, xOf_formatXYN, yOf_formatXYN, nOf_formatXYN])
  rw [AsmLine.word, hf, hp, formatXYN_or_placeFields]

/-- A well-formed line is the line of an instruction whose word it assembles to. -/
theorem spellsInstr_of_wellFormed : (AsmLine.mk m vs).SpellsInstr := by
  cases m with
  | cls | ret => exact spellsInstr_none hl rfl rfl fun _ => rfl
  | jp | call | ldI | jpV0 => exact spellsInstr_A hl rfl rfl rfl fun _ => rfl
  | seImm | sneImm | ldImm | addImm | rnd => exact spellsInstr_XK hl rfl rfl rfl fun _ => rfl
  | seReg | sneReg | ldReg | or | and | xor | addReg | sub | subn => exact spellsInstr_XYS hl rfl rfl rfl fun _ => rfl
  | shr | shl => exact spellsInstr_XYS_x hl rfl rfl rfl fun _ => rfl
  | drw => exact spellsInstr_XYN hl rfl rfl rfl fun _ => rfl
  | _ => exact spellsInstr_XS hl rfl rfl rfl fun _ => rfl

end Formats

/-- Settles O6: a well-formed line is an instruction's, and its word is that instruction's encoding. -/
theorem assembledLinesDecode : Obligations.AssembledLinesDecode := by
  intro l h
  obtain ⟨i, hline, hword⟩ := spellsInstr_of_wellFormed (m := l.mnemonic) (vs := l.operands) h
  exact ⟨i, hword ▸ decodeWord_encode i, hline⟩

end Sys2Proof
end

section
/-! PROOFS. The step cycle (spec/30_encoding.md R70, R71): which STEP raises which error, what it reports, and where
`PC` goes. -/

namespace Sys2Proof.Machine

open Sys2Proof.Claims

/-! ### Errors (R181, R182, R183) -/

theorem exec_ne_refused (i : Instr) (s : State) (r : Refusal) : exec i s ≠ .refused r := by
  obtain ⟨-, h⟩ | ⟨_, -, -, h⟩ | ⟨-, -, h⟩ := exec_cases i s <;> simp [h]

theorem step_ne_refused (s : State) (r : Refusal) : step s ≠ .refused r := by
  cases hw : s.waiting with
  | true => simp [step_waiting hw]
  | false =>
    cases hd : decodeWord s.fetchWord with
    | none => simp [step_illegal hw hd]
    | some i => rw [step_decoded hw hd]; exact exec_ne_refused i s r

/-- The errors of an instruction are the two stack errors, each with the instruction's own word. -/
theorem exec_fault {i : Instr} {s : State} {e : Fault} (h : exec i s = .fault e) :
    (∃ nnn, i = .call nnn ∧ s.SP.val = 16 ∧ e = .stackOverflow (encode i)) ∨
      (i = .ret ∧ s.SP.val = 0 ∧ e = .stackUnderflow (encode i)) := by
  obtain ⟨-, hexec⟩ | ⟨nnn, hi, hSP, hexec⟩ | ⟨hi, hSP, hexec⟩ := exec_cases i s <;> rw [hexec] at h
  · cases h
  · exact .inl ⟨nnn, hi, hSP, (Host.Outcome.fault.inj h).symm⟩
  · exact .inr ⟨hi, hSP, (Host.Outcome.fault.inj h).symm⟩

/-- The word an error carries is the fetched one, since a decoded word is the encoding of its instruction. -/
theorem step_fault_iff (s : State) (e : Fault) : step s = .fault e ↔ s.waiting = false ∧
    ((decodeWord s.fetchWord = none ∧ e = .unknownInstruction s.fetchWord) ∨
      (∃ nnn, decodeWord s.fetchWord = some (.call nnn) ∧ s.SP.val = 16 ∧ e = .stackOverflow s.fetchWord) ∨
        (decodeWord s.fetchWord = some .ret ∧ s.SP.val = 0 ∧ e = .stackUnderflow s.fetchWord)) := by
  constructor
  · intro h
    obtain ⟨hw, hillegal | ⟨i, hd, hexec⟩⟩ := step_fault_cases h
    · exact ⟨hw, .inl hillegal⟩
    · have hword := encode_of_decodeWord hd
      obtain ⟨nnn, rfl, hSP, rfl⟩ | ⟨rfl, hSP, rfl⟩ := exec_fault hexec
      · exact ⟨hw, .inr (.inl ⟨nnn, hd, hSP, by rw [hword]⟩)⟩
      · exact ⟨hw, .inr (.inr ⟨hd, hSP, by rw [hword]⟩)⟩
  · rintro ⟨hw, ⟨hd, rfl⟩ | ⟨nnn, hd, hSP, rfl⟩ | ⟨hd, hSP, rfl⟩⟩
    · exact step_illegal hw hd
    · rw [step_decoded hw hd, exec_call_full nnn hSP, encode_of_decodeWord hd]
    · rw [step_decoded hw hd, exec_ret_empty hSP, encode_of_decodeWord hd]

/-- Settles O9: an illegal word, a `CALL` on a full stack and a `RET` on an empty one, and nothing else. -/
theorem stepRaisesExactlyItsThreeErrors : Obligations.StepRaisesExactlyItsThreeErrors :=
  fun s => ⟨step_fault_iff s, step_ne_refused s⟩

/-- Settles O16: the words of `RET` and `CALL nnn` are `0x00EE` and `0x2000 + nnn`. -/
theorem stackErrorsStopCallAndRet : Obligations.StackErrorsStopCallAndRet := by
  refine ⟨fun s h => exec_ret_empty h, fun s nnn h => ?_⟩
  have hword : encode (.call nnn) = BitVec.ofNat 16 (0x2000 + nnn.toNat) := by
    apply BitVec.eq_of_toNat_eq
    have hnnn := nnn.isLt
    rw [encode, toNat_formatA, BitVec.toNat_ofNat, Nat.mod_eq_of_lt (by omega)]
    rfl
  rw [exec_call_full nnn h, hword]

/-- Whether a STEP raises an error, and which, depends on the wait state, the fetched word and the stack depth only. -/
theorem step_fault_congr {s t : State} {e : Fault} (hw : t.waiting = s.waiting) (hf : t.fetchWord = s.fetchWord)
    (hSP : t.SP = s.SP) (h : step s = .fault e) : step t = .fault e := by
  rw [step_fault_iff] at h ⊢
  rwa [hw, hf, hSP]

/-! ### Errors persist (R186, R189) -/

/-- An operation that neither resets nor loads leaves a failing STEP failing. -/
theorem step_fault_after {s : State} {e : Fault} {op : Operation} (h : step s = .fault e) (hop : LeavesProgram op) :
    step (after op s) = .fault e := by
  cases op with
  | reset | load bytes => exact hop.elim
  | step r =>
    have hr : perform (.step r) s = .fault e := step_fault_congr (s := s) rfl rfl rfl h
    rwa [after, hr]
  | keyDown k =>
    have hready : s.waiting = false := (step_fault_cases h).1
    rw [after, perform, State.keyDown_ready hready]
    exact step_fault_congr (s := s) rfl rfl rfl h
  | tick | keyUp k | ackDraw | ackSound => exact step_fault_congr (s := s) rfl rfl rfl h

/-- Settles O57: by induction on the schedule. -/
theorem errorsPersistUntilResetOrLoad : Obligations.ErrorsPersistUntilResetOrLoad := by
  intro s e ops h hops
  induction ops generalizing s with
  | nil => exact h
  | cons op rest ih =>
    rw [List.forall_mem_cons] at hops
    exact ih (after op s) (step_fault_after h hops.1) hops.2

/-! ### The step cycle (R70, R71) -/

theorem State.fetchWord_eq (s : State) :
    s.fetchWord = s.mem.read (s.PC.toNat % 4096) ++ s.mem.read ((s.PC.toNat + 1) % 4096) := by
  have hea : ea (s.PC + 1) = (s.PC.toNat + 1) % 4096 := by
    rw [ea, BitVec.toNat_add, show (1 : Word).toNat = 1 from rfl]
    omega
  rw [State.fetchWord, State.readWord, State.readMem, State.readMem, hea, wordOfBytes, ea]

/-- Settles O8: the word put together from the two bytes is the fetched one. -/
theorem stepRunsTheFetchedInstruction : Obligations.StepRunsTheFetchedInstruction := by
  intro s i hw hd
  rw [← s.fetchWord_eq] at hd
  exact step_decoded hw hd

/-- Settles O12: the table is how every completed instruction moves `PC`. -/
theorem everyInstructionMovesPcByTheTable : Obligations.EveryInstructionMovesPcByTheTable := by
  intro i s t h
  obtain ⟨-, rfl⟩ := exec_next h
  rfl

/-- Settles O20: below 4096 the target of the jump is `PC` itself. -/
theorem selfJumpChangesNothing : Obligations.SelfJumpChangesNothing := by
  intro s hw hPC hd
  have htarget : zext16 (BitVec.ofNat 12 s.PC.toNat) = s.PC := by
    apply BitVec.eq_of_toNat_eq
    rw [zext16, BitVec.toNat_setWidth_of_le (by decide), BitVec.toNat_ofNat, Nat.mod_eq_of_lt hPC]
  rw [step_decoded hw hd, exec_jp, htarget]
  rfl

/-! ### Reports (R180) -/

theorem report_step_next {s t : State} {r : Byte} (h : step (s.withRnd r) = .next t) :
    report (.step r) s = some (if t.waiting then .awaitingInput else .ok) := by
  simp [report, perform, stepWith, h]

theorem report_step_fault {s : State} {r : Byte} {e : Fault} (h : step s = .fault e) :
    report (.step r) s = some (Report.ofFault e) := by
  have hr : step (s.withRnd r) = .fault e := step_fault_congr (s := s) rfl rfl rfl h
  simp [report, perform, stepWith, hr]

theorem report_step_waiting {s : State} (r : Byte) (hw : s.waiting = true) :
    report (.step r) s = some .awaitingInput := by
  rw [report_step_next (step_waiting (s := s.withRnd r) hw), State.withRnd_waiting, hw]
  rfl

/-- A STEP that completes an instruction reports `Ok`, unless the instruction starts a wait. -/
theorem report_step_completed {s : State} {i : Instr} (r : Byte) (hw : s.waiting = false)
    (hd : decodeWord s.fetchWord = some i) (ha : StackAllows i s) (hi : ∀ x, i ≠ .ldVxK x) :
    report (.step r) s = some .ok := by
  have hstep : step (s.withRnd r) = exec i (s.withRnd r) := step_decoded hw hd
  have ha' : StackAllows i (s.withRnd r) := stackAllows_congr rfl ha
  obtain ⟨x, hx⟩ | ⟨hready, -⟩ := written_wait i (s.withRnd r)
  · exact absurd hx (hi x)
  · rw [report_step_next (hstep.trans (exec_of_stackAllows ha')), State.setPC_waiting, hready,
      State.withRnd_waiting, hw]
    rfl

theorem report_step_keyWait {s : State} {x : Reg} (r : Byte) (hw : s.waiting = false)
    (hd : decodeWord s.fetchWord = some (.ldVxK x)) : report (.step r) s = some .awaitingInput :=
  report_step_next (step_decoded (s := s.withRnd r) hw hd)

/-- Settles O10: both from the first test of the step cycle. -/
theorem stepWhileAwaitingInputDoesNothing : Obligations.StepWhileAwaitingInputDoesNothing :=
  fun _ r hw => ⟨step_waiting hw, report_step_waiting r hw⟩

/-- The code of a STEP that was not awaiting input, by the decoded instruction. -/
theorem code_report_step {s : State} (r : Byte) (hw : s.waiting = false) :
    (report (.step r) s).map Report.code = some (
      match decodeWord s.fetchWord with
      | none => 2
      | some (.call _) => if s.SP.val = 16 then 3 else 0
      | some .ret => if s.SP.val = 0 then 4 else 0
      | some (.ldVxK _) => 1
      | some _ => 0) := by
  cases hd : decodeWord s.fetchWord with
  | none => rw [report_step_fault (step_illegal hw hd)]; rfl
  | some i =>
    cases i with
    | call nnn =>
      by_cases hSP : s.SP.val = 16
      · rw [report_step_fault ((step_decoded hw hd).trans (exec_call_full nnn hSP))]
        simp [hSP, Report.ofFault, Report.code]
      · have hlt : s.SP.val < 16 := by have := s.SP.isLt; omega
        rw [report_step_completed r hw hd hlt (by simp)]
        simp [hSP, Report.code]
    | ret =>
      by_cases hSP : s.SP.val = 0
      · rw [report_step_fault ((step_decoded hw hd).trans (exec_ret_empty hSP))]
        simp [hSP, Report.ofFault, Report.code]
      · rw [report_step_completed r hw hd hSP (by simp)]
        simp [hSP, Report.code]
    | ldVxK x => rw [report_step_keyWait r hw hd]; rfl
    | _ => rw [report_step_completed r hw hd trivial (by simp)]; rfl

theorem code_report_load (s : State) (bytes : List Byte) :
    (report (.load bytes) s).map Report.code = some (if bytes.length > 3584 then 5 else 0) := by
  obtain ⟨hlong, hload⟩ | ⟨hshort, hload⟩ := s.load_cases bytes
  · simp [report, perform, hload, hlong, Report.ofFault, Report.code]
  · simp [report, perform, hload, hshort, Report.code]

/-- Settles O11: a STEP that was awaiting input reports so, any other by what it decodes. -/
theorem reportsAreTheResultsOfR180 : Obligations.ReportsAreTheResultsOfR180 := by
  intro s
  refine ⟨fun r => ?_, code_report_load s⟩
  cases hw : s.waiting with
  | true => rw [report_step_waiting r hw, if_pos rfl]; rfl
  | false =>
    rw [if_neg Bool.false_ne_true]
    exact code_report_step r hw

end Sys2Proof.Machine
end

section
/-! PROOFS. Programs cannot see hidden state: `Indistinguishable` is kept by each update of `State`, hence by each
instruction, hence by a STEP (spec/10_state.md R13, R14, R15, R21). -/

namespace Sys2Proof.Claims.Indistinguishable

open Sys2Proof.Machine

section Updates

variable {s t : State} (h : Indistinguishable s t)
include h

/-! ### What a program reads -/

theorem mem (a : Nat) : t.mem.read a = s.mem.read a := h.1 a

theorem reg (q : Reg) : t.reg q = s.reg q := h.2.1 q

theorem ea_I : ea t.I = ea s.I := by obtain ⟨-, -, hI, -⟩ := h; exact hI

theorem ea_PC : ea t.PC = ea s.PC := by obtain ⟨-, -, -, hPC, -⟩ := h; exact hPC

theorem SP : t.SP = s.SP := by obtain ⟨-, -, -, -, hSP, -⟩ := h; exact hSP

theorem ea_slot (k : Fin 16) (hk : k.val < s.SP.val) : ea t.stack[k] = ea s.stack[k] := by
  obtain ⟨-, -, -, -, -, hstack, -⟩ := h; exact hstack k hk

theorem DT : t.DT = s.DT := by obtain ⟨-, -, -, -, -, -, hDT, -⟩ := h; exact hDT

theorem keys : t.keys = s.keys := by obtain ⟨-, -, -, -, -, -, -, hkeys, -⟩ := h; exact hkeys

theorem display : t.display = s.display := by obtain ⟨-, -, -, -, -, -, -, -, hdisplay, -⟩ := h; exact hdisplay

theorem waiting : t.waiting = s.waiting := by obtain ⟨-, -, -, -, -, -, -, -, -, hwait, -⟩ := h; exact hwait

theorem rnd : t.rnd = s.rnd := by obtain ⟨-, -, -, -, -, -, -, -, -, -, -, hrnd, -⟩ := h; exact hrnd

theorem readMem {a b : Word} (hab : ea b = ea a) : t.readMem b = s.readMem a := by
  rw [State.readMem, State.readMem, hab, h.mem]

theorem V : t.V = s.V := State.V_ext h.reg

/-! ### Updates of one element -/

theorem setMem {m m' : Memory} (hm : ∀ a, m'.read a = m.read a) : Indistinguishable (s.setMem m) (t.setMem m') := by
  obtain ⟨-, hrest⟩ := h
  exact ⟨hm, hrest⟩

theorem setV (v : Vector Byte 16) : Indistinguishable (s.setV v) (t.setV v) := by
  obtain ⟨hmem, -, hrest⟩ := h
  exact ⟨hmem, fun _ => rfl, hrest⟩

theorem setReg (x : Reg) (v : Byte) : Indistinguishable (s.setReg x v) (t.setReg x v) := by
  have hV : t.setReg x v = t.setV (s.V.set x v) := by rw [State.setReg, h.V, State.setV]
  rw [hV]
  exact h.setV _

theorem writeResult (x : Reg) (v : Byte) (c : Bool) :
    Indistinguishable (s.writeResult x v c) (t.writeResult x v c) :=
  (h.setReg x v).setReg VF (flagByte c)

theorem setI {v w : Word} (hvw : ea w = ea v) : Indistinguishable (s.setI v) (t.setI w) := by
  obtain ⟨hmem, hreg, -, hrest⟩ := h
  exact ⟨hmem, hreg, hvw, hrest⟩

theorem setPC {v w : Word} (hvw : ea w = ea v) : Indistinguishable (s.setPC v) (t.setPC w) := by
  obtain ⟨hmem, hreg, hI, -, hrest⟩ := h
  exact ⟨hmem, hreg, hI, hvw, hrest⟩

theorem setStack {st st' : Vector Word 16} (sp : Fin 17)
    (hst : ∀ k : Fin 16, k.val < sp.val → ea st'[k] = ea st[k]) :
    Indistinguishable (s.setStack st sp) (t.setStack st' sp) := by
  obtain ⟨hmem, hreg, hI, hPC, -, -, hrest⟩ := h
  exact ⟨hmem, hreg, hI, hPC, rfl, hst, hrest⟩

theorem setDT (v : Byte) : Indistinguishable (s.setDT v) (t.setDT v) := by
  obtain ⟨hmem, hreg, hI, hPC, hSP, hstack, -, hrest⟩ := h
  exact ⟨hmem, hreg, hI, hPC, hSP, hstack, rfl, hrest⟩

/-- `ST` is hidden. -/
theorem setST (v w : Byte) : Indistinguishable (s.setST v) (t.setST w) := h

/-- `drawFlag` is hidden. -/
theorem setDrawFlag (v w : Bool) : Indistinguishable (s.setDrawFlag v) (t.setDrawFlag w) := h

theorem setDisplay (d : Display) : Indistinguishable (s.setDisplay d) (t.setDisplay d) := by
  obtain ⟨hmem, hreg, hI, hPC, hSP, hstack, hDT, hkeys, -, hrest⟩ := h
  exact ⟨hmem, hreg, hI, hPC, hSP, hstack, hDT, hkeys, rfl, hrest⟩

theorem setWait (v : Bool) (r : Reg) : Indistinguishable (s.setWait v r) (t.setWait v r) := by
  obtain ⟨hmem, hreg, hI, hPC, hSP, hstack, hDT, hkeys, hdisplay, -, -, hsupply⟩ := h
  exact ⟨hmem, hreg, hI, hPC, hSP, hstack, hDT, hkeys, hdisplay, rfl, fun _ => rfl, hsupply⟩

theorem freshRnd : Indistinguishable s.freshRnd t.freshRnd := by
  obtain ⟨hmem, hreg, hI, hPC, hSP, hstack, hDT, hkeys, hdisplay, hwait, hwaitReg, -, hdraws⟩ := h
  refine ⟨hmem, hreg, hI, hPC, hSP, hstack, hDT, hkeys, hdisplay, hwait, hwaitReg, ?_, ?_⟩
  · rw [State.freshRnd_rnd, State.freshRnd_rnd, hdraws]
  · rw [State.freshRnd_draws, State.freshRnd_draws, hdraws]

/-! ### Updates that read the state -/

theorem writeMem {a b : Word} (hab : ea b = ea a) (v : Byte) : Indistinguishable (s.writeMem a v) (t.writeMem b v) :=
  h.setMem fun c => by rw [Memory.read_write, Memory.read_write, hab, h.mem]

theorem drawMask (m : Display) : Indistinguishable (s.drawMask m) (t.drawMask m) := by
  rw [State.drawMask, State.drawMask, h.display]
  exact ((h.setDisplay _).setReg VF _).setDrawFlag true true

/-- The sprite is read at `EA(I)` and up, where the two states hold the same bytes. -/
theorem spriteMask (x0 y0 n : Nat) : t.spriteMask x0 y0 n = s.spriteMask x0 y0 n := by
  simp only [State.spriteMask, State.spriteRow, h.readMem (ea_add_congr h.ea_I _)]

theorem regsUpTo (x : Reg) : t.regsUpTo x = s.regsUpTo x := by rw [State.regsUpTo, State.regsUpTo, h.V]

theorem loadedRegs (x : Reg) : t.loadedRegs x = s.loadedRegs x := by
  simp only [State.loadedRegs, h.readMem (ea_add_congr h.ea_I _), h.reg]

theorem popped : Indistinguishable s.popped t.popped := by
  simp only [State.popped, h.SP]
  exact h.setStack _ fun k hk => h.ea_slot k (Nat.lt_of_lt_of_le hk (Nat.sub_le ..))

theorem pushed (hlt : s.SP.val < 16) : Indistinguishable s.pushed t.pushed := by
  have hlt' : t.SP.val < 16 := h.SP ▸ hlt
  rw [State.pushed_of_lt hlt, State.pushed_of_lt hlt']
  simp only [h.SP]
  refine h.setStack _ fun k hk => ?_
  simp only [Fin.getElem_fin, Vector.getElem_set]
  split
  · exact ea_add_congr h.ea_PC 2
  · exact h.ea_slot k (by simp only at hk; omega)

end Updates

theorem storeBytes {s t : State} (h : Indistinguishable s t) {a b : Word} (hab : ea b = ea a) (bs : List Byte) :
    Indistinguishable (s.storeBytes a bs) (t.storeBytes b bs) := by
  induction bs generalizing s t a b with
  | nil => exact h
  | cons v rest ih => exact ih (h.writeMem hab v) (ea_add_congr hab 1)

/-! ### Instructions -/

section Instructions

variable {s t : State} (h : Indistinguishable s t)
include h

theorem stackAllows {i : Instr} (ha : StackAllows i s) : StackAllows i t := stackAllows_congr h.SP ha

theorem written {i : Instr} (ha : StackAllows i s) :
    Indistinguishable (Machine.written i s) (Machine.written i t) := by
  cases i with
  | cls => exact (h.setDisplay _).setDrawFlag true true
  | ret => exact h.popped
  | call nnn => exact h.pushed ha
  | ldImm x nn | addImm x nn | ldReg x y | or x y | and x y | xor x y =>
    simp only [Machine.written, h.reg]
    exact h.setReg x _
  | addReg x y | sub x y | shr x y | subn x y | shl x y =>
    simp only [Machine.written, h.reg]
    exact h.writeResult x _ _
  | ldI nnn => exact h.setI rfl
  | rnd x nn =>
    simp only [Machine.written, h.rnd]
    exact (h.setReg x _).freshRnd
  | drw x y n =>
    simp only [Machine.written, h.reg, h.spriteMask]
    exact h.drawMask _
  | ldVxDt x =>
    simp only [Machine.written, h.DT]
    exact h.setReg x _
  | ldVxK x => exact h.setWait true x
  | ldDtVx x =>
    simp only [Machine.written, h.reg]
    exact h.setDT _
  | ldStVx x => exact h.setST _ _
  | addI x =>
    simp only [Machine.written, h.reg]
    exact h.setI (ea_add_congr h.ea_I _)
  | ldF x =>
    simp only [Machine.written, h.reg]
    exact h.setI rfl
  | ldB x =>
    simp only [Machine.written, h.reg]
    exact h.storeBytes h.ea_I _
  | ldMemV x =>
    simp only [Machine.written, h.regsUpTo]
    exact h.storeBytes h.ea_I _
  | ldVMem x =>
    simp only [Machine.written, h.loadedRegs]
    exact h.setV _
  | jp _ | jpV0 _ | seImm _ _ | sneImm _ _ | seReg _ _ | sneReg _ _ | skp _ | sknp _ => exact h

theorem ea_nextPC : ea (nextPC t) = ea (nextPC s) := by
  rw [← t.next_eq_nextPC, ← s.next_eq_nextPC]
  exact ea_add_congr h.ea_PC 2

theorem ea_skipPC : ea (skipPC t) = ea (skipPC s) := by
  rw [← t.skip_eq_skipPC, ← s.skip_eq_skipPC]
  exact ea_add_congr h.ea_PC 4

theorem ea_skipPC_or_nextPC (c : Prop) [Decidable c] :
    ea (if c then skipPC t else nextPC t) = ea (if c then skipPC s else nextPC s) := by
  split
  · exact h.ea_skipPC
  · exact h.ea_nextPC

theorem ea_pcAfter {i : Instr} (ha : StackAllows i s) : ea (pcAfter i t) = ea (pcAfter i s) := by
  cases i with
  | jp _ | call _ => rfl
  | jpV0 nnn => simp only [pcAfter, h.reg]
  | ret =>
    have hlt : s.SP.val - 1 < 16 := by have := s.SP.isLt; omega
    have htop := h.ea_slot ⟨s.SP.val - 1, hlt⟩ (Nat.sub_lt (Nat.pos_of_ne_zero ha) Nat.one_pos)
    simp only [pcAfter, h.SP]
    rw [← s.getElem_top hlt]
    simpa [List.getD, hlt] using htop
  | seImm _ _ | sneImm _ _ | seReg _ _ | sneReg _ _ | skp _ | sknp _ =>
    simp only [pcAfter, h.reg, h.keys]
    exact h.ea_skipPC_or_nextPC _
  | ldVxK x => exact h.ea_PC
  | _ => exact h.ea_nextPC

/-- One instruction on two states a program cannot tell apart leads to two such states. -/
theorem exec {i : Instr} {s' : State} (hs : Machine.exec i s = .next s') :
    ∃ t', Machine.exec i t = .next t' ∧ Indistinguishable s' t' := by
  obtain ⟨ha, rfl⟩ := exec_next hs
  exact ⟨_, exec_of_stackAllows (h.stackAllows ha), (h.written ha).setPC (h.ea_pcAfter ha)⟩

theorem fetchWord : t.fetchWord = s.fetchWord := by
  rw [State.fetchWord, State.fetchWord, State.readWord, State.readWord, h.readMem h.ea_PC,
    h.readMem (ea_add_congr h.ea_PC 1)]

end Instructions

end Sys2Proof.Claims.Indistinguishable

namespace Sys2Proof.Machine

open Sys2Proof.Claims

/-- Settles O46: both STEPs wait, or both run the instruction they both fetch, or both raise its error. -/
theorem programsCannotSeeHiddenState : Obligations.ProgramsCannotSeeHiddenState := by
  intro s t h
  refine ⟨fun s' hs => ?_, fun e hs => step_fault_congr h.waiting h.fetchWord h.SP hs⟩
  obtain ⟨hw, rfl⟩ | ⟨i, hw, hd, hexec⟩ := step_cases hs
  · exact ⟨t, step_waiting (h.waiting.trans hw), h⟩
  · rw [step_decoded (h.waiting.trans hw) (h.fetchWord.symm ▸ hd)]
    exact h.exec hexec

end Sys2Proof.Machine
end

section
/-! PROOFS. Memory (spec/20_memory.md) and the block instructions `LD_B`, `LD_MEM_V`, `LD_V_MEM`
(spec/47_misc_timers_memory.md section 4). -/

namespace Sys2Proof.Machine

open Sys2Proof.Claims

/-! ### Cells (R42, R43) -/

/-- Settles O41: a write is seen by the reads of its cell, and `EA` names the cell. -/
theorem readReturnsTheLatestWrite : Obligations.ReadReturnsTheLatestWrite := by
  intro s a b v
  rw [s.readMem_writeMem]
  exact ⟨fun h => if_pos h, fun h => if_neg h⟩

theorem ea_add_ofNat (a : Word) (k : Nat) : ea (a + BitVec.ofNat 16 k) = (a.toNat + k) % 4096 := by
  rw [ea, BitVec.toNat_add, BitVec.toNat_ofNat]
  omega

/-! ### Canonical memories (log 8) -/

/-- Below the first address a list may hold, every cell reads as after RESET. -/
theorem readCells_of_lt {g : GlyphTable} {lo a : Nat} {cells : List Host.Cell} (h : wfCells g lo cells = true)
    (ha : a < lo) : readCells g a cells = resetByte g a := by
  induction cells generalizing lo with
  | nil => rfl
  | cons c rest ih =>
    simp only [wfCells, Bool.and_eq_true, decide_eq_true_eq] at h
    obtain ⟨⟨⟨hlo, -⟩, -⟩, hrest⟩ := h
    rw [readCells, if_neg (by omega), ih hrest (by omega)]

theorem wfCells_cons {g : GlyphTable} {lo : Nat} {c : Host.Cell} {rest : List Host.Cell} :
    wfCells g lo (c :: rest) = true ↔
      lo ≤ c.1 ∧ c.1 < 4096 ∧ c.2 ≠ resetByte g c.1 ∧ wfCells g (c.1 + 1) rest = true := by
  simp only [wfCells, Bool.and_eq_true, decide_eq_true_eq, and_assoc]

@[simp] theorem readCells_cons_self (g : GlyphTable) (c : Host.Cell) (rest : List Host.Cell) :
    readCells g c.1 (c :: rest) = c.2 := if_pos rfl

/-- A canonical list that reads a listed byte of another one lists a cell at that address or below. -/
theorem exists_cons_of_read {g : GlyphTable} {lo lo' : Nat} {cells rest' : List Host.Cell} {c' : Host.Cell}
    (h : wfCells g lo cells = true) (h' : wfCells g lo' (c' :: rest') = true) (hread : readCells g c'.1 cells = c'.2) :
    ∃ c rest, cells = c :: rest ∧ c.1 ≤ c'.1 := by
  obtain ⟨-, -, hne, -⟩ := wfCells_cons.mp h'
  cases cells with
  | nil => exact absurd hread.symm hne
  | cons c rest =>
    obtain ⟨-, hlt, hc, hrest⟩ := wfCells_cons.mp h
    refine ⟨c, rest, rfl, Nat.le_of_not_lt fun hbelow => hne ?_⟩
    rw [← hread, readCells_of_lt (wfCells_cons.mpr ⟨Nat.le_refl _, hlt, hc, hrest⟩) hbelow]

theorem cells_unique {g : GlyphTable} {lo : Nat} {cells cells' : List Host.Cell} (h : wfCells g lo cells = true)
    (h' : wfCells g lo cells' = true) (hread : ∀ a < 4096, readCells g a cells' = readCells g a cells) :
    cells' = cells := by
  induction cells generalizing lo cells' with
  | nil =>
    cases cells' with
    | nil => rfl
    | cons c' rest' =>
      obtain ⟨-, hlt, -⟩ := wfCells_cons.mp h'
      obtain ⟨_, _, hnil, -⟩ := exists_cons_of_read h h' (by rw [← hread _ hlt, readCells_cons_self])
      cases hnil
  | cons c rest ih =>
    obtain ⟨-, hlt, -, hrest⟩ := wfCells_cons.mp h
    obtain ⟨c', rest', rfl, hle⟩ := exists_cons_of_read h' h (by rw [hread _ hlt, readCells_cons_self])
    obtain ⟨-, hlt', -, hrest'⟩ := wfCells_cons.mp h'
    obtain ⟨_, _, hcons, hge⟩ := exists_cons_of_read h h' (by rw [← hread _ hlt', readCells_cons_self])
    obtain ⟨rfl, rfl⟩ := List.cons_eq_cons.mp hcons
    have haddr : c'.1 = c.1 := Nat.le_antisymm hle hge
    have hbyte : c'.2 = c.2 := by
      rw [← readCells_cons_self g c' rest', hread _ hlt', haddr, readCells_cons_self]
    obtain rfl : c' = c := Prod.ext haddr hbyte
    rw [ih hrest hrest' fun a ha => ?_]
    by_cases hac : a < c'.1 + 1
    · rw [readCells_of_lt hrest hac, readCells_of_lt hrest' hac]
    · have hne : c'.1 ≠ a := by omega
      simpa only [readCells, if_neg hne] using hread a ha

/-- Settles O44: two canonical lists of cells that read alike list the same cells. -/
theorem canonicalMemoryIsUnique : Obligations.CanonicalMemoryIsUnique := by
  rintro ⟨g, cells⟩ ⟨_, cells'⟩ h h' rfl hread
  exact congrArg (Memory.mk _) (cells_unique h h' hread)

/-! ### What an instruction stores (R47, R166, R167) -/

/-- The bytes stored, in order, are those the rules of `LD_B` and `LD_MEM_V` name. -/
theorem getElem?_storedBytes (i : Instr) (s : State) (j : Nat) : (storedBytes i s)[j]? = storedByte i s j := by
  cases i with
  | ldB x => match j with
    | 0 | 1 | 2 => rfl
    | j + 3 => rfl
  | ldMemV x =>
    rw [storedBytes, storedByte]
    by_cases h : j ≤ x.val
    · have hlt : j < (s.regsUpTo x).length := by rw [State.length_regsUpTo]; omega
      rw [dif_pos h, List.getElem?_eq_getElem hlt, State.getElem_regsUpTo]
    · rw [dif_neg h, List.getElem?_eq_none (by rw [State.length_regsUpTo]; omega)]
  | _ => rfl

theorem length_storedBytes_le (i : Instr) (s : State) : (storedBytes i s).length ≤ 4096 := by
  cases i with
  | ldMemV x => rw [storedBytes, State.length_regsUpTo]; omega
  | _ => simp [storedBytes, decimalDigits]

/-- A cell the instruction stores to holds the byte stored. -/
theorem readMem_of_storedByte {i : Instr} {s t : State} (h : exec i s = .next t) {j : Nat} {v : Byte} {a : Word}
    (hj : storedByte i s j = some v) (ha : ea a = ea (s.I + BitVec.ofNat 16 j)) : t.readMem a = v := by
  obtain ⟨-, rfl⟩ := exec_next h
  rw [← getElem?_storedBytes, List.getElem?_eq_some_iff] at hj
  obtain ⟨hlt, rfl⟩ := hj
  rw [State.setPC_readMem, State.readMem, written_mem, ha]
  exact s.read_storeBytes_inside s.I _ (length_storedBytes_le i s) j hlt

/-- A cell the instruction does not store to keeps its byte. -/
theorem read_of_not_stored {i : Instr} {s t : State} (h : exec i s = .next t) {a : Nat}
    (ha : ∀ j v, storedByte i s j = some v → a ≠ ea (s.I + BitVec.ofNat 16 j)) : t.mem.read a = s.mem.read a := by
  obtain ⟨-, rfl⟩ := exec_next h
  rw [State.setPC_mem, written_mem]
  refine s.read_storeBytes_outside s.I _ a fun k hk => ha k (storedBytes i s)[k] ?_
  rw [← getElem?_storedBytes, List.getElem?_eq_getElem hk]

theorem heldAfter_readMem {i : Instr} {s t : State} (h : exec i s = .next t) (a : Word) :
    HeldAfter i s a (t.readMem a) :=
  ⟨fun _ _ hj ha => readMem_of_storedByte h hj ha, fun ha => read_of_not_stored h ha⟩

/-- Settles O43: the fetch reads memory as the instruction left it, the high byte first. -/
theorem storeIsSeenByTheNextFetch : Obligations.StoreIsSeenByTheNextFetch := by
  intro i s t h
  rw [State.fetchWord, State.readWord, highByte_wordOfBytes, lowByte_wordOfBytes]
  exact ⟨heldAfter_readMem h t.PC, heldAfter_readMem h (t.PC + 1)⟩

/-- The offsets at which an instruction stores. -/
theorem storedByte_eq_some {i : Instr} {s : State} {j : Nat} {v : Byte} (h : storedByte i s j = some v) :
    (∃ x, i = .ldB x ∧ j < 3) ∨ ∃ x, i = .ldMemV x ∧ j ≤ x.val := by
  unfold storedByte at h
  split at h
  · exact .inl ⟨_, rfl, by decide⟩
  · exact .inl ⟨_, rfl, by decide⟩
  · exact .inl ⟨_, rfl, by decide⟩
  · split at h
    · exact .inr ⟨_, rfl, ‹_›⟩
    · cases h
  · cases h

/-- Settles O42: a cell whose byte differs was stored to. -/
theorem onlyStoresWriteMemory : Obligations.OnlyStoresWriteMemory := by
  intro i s t h
  refine ⟨?_, fun a _ hne => ?_⟩
  · obtain ⟨-, rfl⟩ := exec_next h
    rw [State.setPC_mem, written_mem, State.storeBytes_glyphs]
  · by_contra hno
    refine hne (read_of_not_stored h fun j v hj ha => hno ?_)
    obtain ⟨x, rfl, hlt⟩ | ⟨x, rfl, hle⟩ := storedByte_eq_some hj
    · exact .inl ⟨x, rfl, j, hlt, ha⟩
    · exact .inr ⟨x, rfl, j, hle, ha⟩

/-! ### `LD_B`, `LD_MEM_V`, `LD_V_MEM` (R166, R167, R168) -/

theorem exec_ldB (x : Reg) (s : State) :
    exec (.ldB x) s = .next (s.storeBytes s.I (decimalDigits (s.reg x))).advance := rfl

theorem exec_ldMemV (x : Reg) (s : State) :
    exec (.ldMemV x) s = .next (s.storeBytes s.I (s.regsUpTo x)).advance := rfl

theorem exec_ldVMem (x : Reg) (s : State) : exec (.ldVMem x) s = .next (s.setV (s.loadedRegs x)).advance := rfl

theorem State.PC_storeBytes_advance (s : State) (bs : List Byte) : (s.storeBytes s.I bs).advance.PC = nextPC s := by
  rw [State.advance_eq_of_PC_eq (s.storeBytes_PC s.I bs), State.setPC_PC]

/-- The frame shared by the two instructions that store a block at `I`. -/
theorem State.onlyStores_storeBytes_advance (s : State) (bs : List Byte) :
    OnlyStores bs.length s (s.storeBytes s.I bs).advance :=
  have hrest : SameRest s (s.storeBytes s.I bs).advance :=
    ⟨⟨s.storeBytes_stack .., s.storeBytes_SP ..⟩, ⟨s.storeBytes_DT .., s.storeBytes_ST ..⟩,
      ⟨s.storeBytes_keys .., s.storeBytes_soundFlag ..⟩, ⟨s.storeBytes_waiting .., s.storeBytes_waitReg ..⟩,
      ⟨s.storeBytes_rnd .., s.storeBytes_draws ..⟩⟩
  ⟨fun q _ => s.storeBytes_reg s.I bs q, s.storeBytes_I .., ⟨s.storeBytes_display .., s.storeBytes_drawFlag ..⟩, hrest,
    s.storeBytes_glyphs .., fun a _ h => s.read_storeBytes_outside s.I bs a h⟩

theorem State.readMem_of_storeBytes_advance (s : State) (bs : List Byte) (hl : bs.length ≤ 4096) {k : Nat}
    (hk : k < bs.length) : (s.storeBytes s.I bs).advance.mem.read (ea (s.I + BitVec.ofNat 16 k)) = bs[k] :=
  s.read_storeBytes_inside s.I bs hl k hk

/-- A decimal digit, or the hundreds of a byte, fits a byte. -/
theorem toNat_digit {d : Nat} (h : d < 256) : (BitVec.ofNat 8 d).toNat = d := by
  rw [BitVec.toNat_ofNat, Nat.mod_eq_of_lt h]

/-- Settles O37: the three digits are the block stored at `I`. -/
theorem decimalDigitsAreStored : Obligations.DecimalDigitsAreStored := by
  intro s x
  have hlt : (s.reg x).toNat < 256 := (s.reg x).isLt
  have hread {k : Nat} (hk : k < 3) := s.readMem_of_storeBytes_advance (decimalDigits (s.reg x))
    (length_storedBytes_le (.ldB x) s) hk
  refine ⟨_, exec_ldB x s, ?hundreds, ?tens, ?ones, s.PC_storeBytes_advance _, s.onlyStores_storeBytes_advance _⟩
  case hundreds =>
    have h := hread (k := 0) (by decide)
    rw [BitVec.add_zero] at h
    exact (congrArg BitVec.toNat h).trans (toNat_digit (by omega))
  case tens => exact (congrArg BitVec.toNat (hread (k := 1) (by decide))).trans (toNat_digit (by omega))
  case ones => exact (congrArg BitVec.toNat (hread (k := 2) (by decide))).trans (toNat_digit (by omega))

/-- What a register block read back gives: the `k`-th byte stored is `V[k]`. -/
theorem readMem_of_ldMemV (s : State) (x : Reg) {k : Reg} (hk : k ≤ x) :
    (s.storeBytes s.I (s.regsUpTo x)).advance.mem.read (ea (s.I + BitVec.ofNat 16 k.val)) = s.reg k := by
  have hle : k.val ≤ x.val := hk
  have hlt : k.val < (s.regsUpTo x).length := by rw [State.length_regsUpTo]; omega
  rw [s.readMem_of_storeBytes_advance (s.regsUpTo x) (length_storedBytes_le (.ldMemV x) s) hlt, State.getElem_regsUpTo]

/-- Settles O38: the registers are the block stored at `I`. -/
theorem registersAreStored : Obligations.RegistersAreStored := by
  intro s x
  refine ⟨_, exec_ldMemV x s, fun k => readMem_of_ldMemV s x, s.PC_storeBytes_advance _, ?_⟩
  rw [← s.length_regsUpTo x]
  exact s.onlyStores_storeBytes_advance _

/-- The registers after `LD_V_MEM`: read from memory up to `V[x]`, kept above. -/
theorem reg_loadedRegs (s : State) (x k : Reg) : (s.setV (s.loadedRegs x)).advance.reg k =
    if k ≤ x then s.readMem (s.I + BitVec.ofNat 16 k.val) else s.reg k :=
  s.getElem_loadedRegs x k

/-- The frame of an instruction that writes the register file and `PC`. -/
theorem State.frame_setV_advance (s : State) (v : Vector Byte 16) : (s.setV v).advance.I = s.I ∧
    SameMemory s (s.setV v).advance ∧ SameScreen s (s.setV v).advance ∧ SameRest s (s.setV v).advance :=
  ⟨rfl, ⟨fun _ => rfl, rfl⟩, ⟨rfl, rfl⟩, ⟨rfl, rfl⟩, ⟨rfl, rfl⟩, ⟨rfl, rfl⟩, ⟨rfl, rfl⟩, ⟨rfl, rfl⟩⟩

/-- Settles O39: only the register file and `PC` are written. -/
theorem registersAreLoaded : Obligations.RegistersAreLoaded := by
  intro s x
  refine ⟨_, exec_ldVMem x s, fun k hk => ?_, fun k hk => ?_, s.next_eq_nextPC,
    s.frame_setV_advance _⟩
  · rw [reg_loadedRegs, if_pos hk, State.readMem, ea_add_ofNat]
  · rw [reg_loadedRegs, if_neg hk]

/-- Settles O40: each byte loaded is the byte stored for that register. -/
theorem loadReadsBackTheStoredBlock : Obligations.LoadReadsBackTheStoredBlock := by
  rintro s t u x h ⟨hread, -⟩ hI
  obtain rfl := Host.Outcome.next.inj ((exec_ldMemV x s).symm.trans h)
  refine ⟨_, exec_ldVMem x u, fun k hk => ?_⟩
  rw [reg_loadedRegs, if_pos hk, hread, hI]
  simpa [State.readMem] using readMem_of_ldMemV s x hk

end Sys2Proof.Machine
end

section
/-! PROOFS. What each element's writers are (spec/10_state.md R26). -/

namespace Sys2Proof.Machine

open Sys2Proof.Claims

/-! ### Registers (R12, R26) -/

/-- A flag-writing instruction leaves a flag byte in `VF`, whichever register its result went to. -/
theorem written_flag {i : Instr} (hi : WritesFlag i) (s : State) : ∃ c, (written i s).reg VF = flagByte c := by
  cases i with
  | addReg _ _ | sub _ _ | shr _ _ | subn _ _ | shl _ _ => exact ⟨_, (s.reg_writeResult ..).trans (if_pos rfl)⟩
  | drw _ _ _ => exact ⟨_, (s.reg_drawMask ..).trans (if_pos rfl)⟩
  | _ => exact hi.elim

theorem written_reg {i : Instr} {q : Reg} (hq : ¬ MayWriteReg i q) (s : State) : (written i s).reg q = s.reg q := by
  cases i with
  | ldImm _ _ | addImm _ _ | ldReg _ _ | or _ _ | and _ _ | xor _ _ | rnd _ _ | ldVxDt _ =>
    exact s.reg_setReg_ne hq _
  | addReg _ _ | sub _ _ | shr _ _ | subn _ _ | shl _ _ =>
    obtain ⟨hx, hVF⟩ := not_or.mp hq
    exact (s.reg_writeResult ..).trans ((if_neg hVF).trans (if_neg hx))
  | drw _ _ _ => exact (s.reg_drawMask ..).trans (if_neg hq)
  | ldVMem x => exact (s.getElem_loadedRegs x q).trans (if_neg hq)
  | ldB _ | ldMemV _ => exact s.storeBytes_reg ..
  | _ => rfl

/-- Settles O28: the flag is written as a flag byte, and no register but the instruction's own is written. -/
theorem onlyNamedRegistersAreWritten : Obligations.OnlyNamedRegistersAreWritten := by
  intro i s t h
  obtain ⟨-, rfl⟩ := exec_next h
  refine ⟨fun hi => ?_, fun q hq => written_reg hq s⟩
  obtain ⟨c, hc⟩ := written_flag hi s
  rw [State.setPC_reg, hc]
  exact flagByte_cases c

/-! ### The other elements (R26) -/

theorem written_stack (i : Instr) (s : State) :
    SameStack s (written i s) ∨ i.mnemonic = .call ∨ i.mnemonic = .ret := by
  cases i with
  | call nnn => exact .inr (.inl rfl)
  | ret => exact .inr (.inr rfl)
  | _ => exact .inl (by simp [SameStack, written, State.writeResult, State.setFlag, State.drawMask])

theorem written_display (i : Instr) (s : State) :
    (written i s).display = s.display ∨ i.mnemonic = .cls ∨ i.mnemonic = .drw := by
  cases i with
  | cls => exact .inr (.inl rfl)
  | drw x y n => exact .inr (.inr rfl)
  | _ => exact .inl (by simp [written, State.writeResult, State.setFlag, State.pushed, State.popped])

theorem written_drawFlag (i : Instr) (s : State) :
    (written i s).drawFlag = if i.mnemonic = .cls ∨ i.mnemonic = .drw then true else s.drawFlag := by
  cases i <;> simp [Instr.mnemonic, written, State.writeResult, State.setFlag, State.drawMask, State.pushed,
    State.popped]

theorem written_I (i : Instr) (s : State) :
    (written i s).I = s.I ∨ i.mnemonic = .ldI ∨ i.mnemonic = .addI ∨ i.mnemonic = .ldF := by
  cases i with
  | ldI nnn => exact .inr (.inl rfl)
  | addI x => exact .inr (.inr (.inl rfl))
  | ldF x => exact .inr (.inr (.inr rfl))
  | _ => exact .inl (by simp [written, State.writeResult, State.setFlag, State.drawMask, State.pushed, State.popped])

theorem written_DT (i : Instr) (s : State) : (written i s).DT = s.DT ∨ i.mnemonic = .ldDtVx := by
  cases i with
  | ldDtVx x => exact .inr rfl
  | _ => exact .inl (by simp [written, State.writeResult, State.setFlag, State.drawMask, State.pushed, State.popped])

theorem written_ST (i : Instr) (s : State) : (written i s).ST = s.ST ∨ i.mnemonic = .ldStVx := by
  cases i with
  | ldStVx x => exact .inr rfl
  | _ => exact .inl (by simp [written, State.writeResult, State.setFlag, State.drawMask, State.pushed, State.popped])

theorem written_keysAndSound (i : Instr) (s : State) : SameKeysAndSound s (written i s) := by
  cases i <;> simp [SameKeysAndSound, written, State.writeResult, State.setFlag, State.drawMask, State.pushed,
    State.popped]

/-- Settles O45: element by element, from the update of the instruction; `PC` is none of these elements. -/
theorem eachElementHasItsWriters : Obligations.EachElementHasItsWriters := by
  intro i s t h
  obtain ⟨-, rfl⟩ := exec_next h
  refine ⟨(written_stack i s).resolve_left, (written_display i s).resolve_left, written_drawFlag i s,
    (written_I i s).resolve_left, (written_DT i s).resolve_left, (written_ST i s).resolve_left, fun hwait => ?_,
    written_keysAndSound i s⟩
  obtain ⟨x, rfl⟩ | hsame := written_wait i s
  · rfl
  · exact absurd hsame hwait

end Sys2Proof.Machine
end

section
/-! PROOFS. Family 0 and the return stack (spec/40_family0_jump_call.md), key skips and key wait
(spec/46_key_skip.md, spec/47_misc_timers_memory.md). -/

namespace Sys2Proof.Machine

open Sys2Proof.Claims

/-! ### `CLS` (R80) -/

theorem exec_cls (s : State) :
    exec .cls s = .next ((s.setDisplay (Vector.replicate 32 0)).setDrawFlag true).advance := rfl

/-- Settles O13: the new bitmap is all zeros, and the update touches the screen and `PC` only. -/
theorem clsClearsTheDisplay : Obligations.ClsClearsTheDisplay := by
  intro s
  refine ⟨_, exec_cls s, fun r c => ?_, rfl, s.next_eq_nextPC, fun _ _ => rfl, rfl, ⟨fun _ => rfl, rfl⟩,
    ⟨rfl, rfl⟩, ⟨rfl, rfl⟩, ⟨rfl, rfl⟩, ⟨rfl, rfl⟩, ⟨rfl, rfl⟩⟩
  simp [State.pixel]

/-! ### `RET` and `CALL` (R81, R83) -/

theorem pcAfter_ret (s : State) {k : Fin 16} (hk : k.val = s.SP.val - 1) : pcAfter .ret s = s.stack[k] := by
  have hlt : s.SP.val - 1 < 16 := hk ▸ k.isLt
  rw [pcAfter, ← s.getElem_top hlt]
  simp only [Fin.getElem_fin, hk]

/-- Settles O14: the slot below the depth is the target, and no slot is written. -/
theorem retPopsTheReturnAddress : Obligations.RetPopsTheReturnAddress := by
  intro s h
  refine ⟨_, exec_ret_of_ne (Nat.ne_of_gt h), Nat.sub_add_cancel h, fun k hk => pcAfter_ret s hk, rfl, fun _ _ => rfl,
    rfl, ⟨fun _ => rfl, rfl⟩, ⟨rfl, rfl⟩, ⟨rfl, rfl⟩, ⟨rfl, rfl⟩, ⟨rfl, rfl⟩, ⟨rfl, rfl⟩⟩

/-- The slots after a push: the one at the old depth holds `NEXT`. -/
theorem State.getElem_pushed {s : State} (h : s.SP.val < 16) (k : Fin 16) :
    s.pushed.stack[k] = if k.val = s.SP.val then nextPC s else s.stack[k] := by
  simp only [State.pushed_of_lt h, State.setStack_stack, Fin.getElem_fin, Vector.getElem_set, s.next_eq_nextPC,
    eq_comm (a := s.SP.val)]

theorem State.pushed_SP {s : State} (h : s.SP.val < 16) : s.pushed.SP.val = s.SP.val + 1 := Nat.min_eq_left h

/-- Settles O15: a push, then the jump. -/
theorem callPushesTheNextAddress : Obligations.CallPushesTheNextAddress := by
  intro s nnn h
  refine ⟨_, exec_call_of_lt nnn h, State.pushed_SP h, State.getElem_pushed h, ?_, fun _ _ => rfl, rfl,
    ⟨fun _ => rfl, rfl⟩, ⟨rfl, rfl⟩, ⟨rfl, rfl⟩, ⟨rfl, rfl⟩, ⟨rfl, rfl⟩, ⟨rfl, rfl⟩⟩
  have hnnn : nnn.toNat < 4096 := nnn.isLt
  exact (BitVec.toNat_ofNat ..).trans (Nat.mod_eq_of_lt (by omega))

/-- Settles O17: the slot `RET` pops is the one `CALL` wrote. -/
theorem returnGoesBehindTheCall : Obligations.ReturnGoesBehindTheCall := by
  rintro s t u nnn h ⟨hstack, hSP⟩
  obtain ⟨hlt : s.SP.val < 16, rfl⟩ := exec_next h
  have hdepth : u.SP.val = s.SP.val + 1 := (congrArg Fin.val hSP).trans (State.pushed_SP hlt)
  refine ⟨_, exec_ret_of_ne (by omega), ?_, Fin.ext ?_⟩
  · have hslot : (⟨s.SP.val, hlt⟩ : Fin 16).val = u.SP.val - 1 := by simp only [hdepth]; omega
    refine (pcAfter_ret u hslot).trans ?_
    rw [hstack]
    exact (State.getElem_pushed hlt _).trans (if_pos rfl)
  · change u.SP.val - 1 = s.SP.val
    omega

/-! ### Keys (R150, R151, R161) -/

theorem keyOf_eq {v : Byte} {k : Key} (h : k.val = v.toNat % 16) : keyOf v = k := Fin.ext h.symm

/-- Settles O22: both are conditional skips on the one key that `V[x]` names. -/
theorem keySkipsMovePcOnly : Obligations.KeySkipsMovePcOnly := by
  intro s x k hk
  obtain rfl := keyOf_eq hk
  rw [exec_skp, exec_sknp]
  refine ⟨congrArg _ (s.skipIf_of_iff Iff.rfl), congrArg _ (s.skipIf_of_iff_not ?_)⟩
  rw [Bool.not_eq_true', Bool.not_eq_true]

theorem exec_ldVxK (x : Reg) (s : State) : exec (.ldVxK x) s = .next (s.setWait true x) := rfl

/-- Settles O36: the one update is of the wait state. -/
theorem keyWaitChangesOnlyTheWaitState : Obligations.KeyWaitChangesOnlyTheWaitState :=
  fun s x => exec_ldVxK x s

end Sys2Proof.Machine
end

section
/-! PROOFS. Arithmetic with a flag (spec/43_alu.md), the index register (spec/47_misc_timers_memory.md section 3) and
the random byte (spec/44_index_jump_random.md R132). -/

namespace Sys2Proof.Machine

open Sys2Proof.Claims

/-! ### A result and a flag written, then `PC <- NEXT` (R119) -/

theorem State.onlyRegs_writeResult_advance (s : State) (x : Reg) (v : Byte) (c : Bool) :
    OnlyRegs [x, 0xF] s (s.writeResult x v c).advance := by
  refine ⟨fun q hq => ?_, rfl, ⟨fun _ => rfl, rfl⟩, ⟨rfl, rfl⟩, ⟨rfl, rfl⟩, ⟨rfl, rfl⟩, ⟨rfl, rfl⟩, ⟨rfl, rfl⟩,
    ⟨rfl, rfl⟩⟩
  obtain ⟨hx, hVF⟩ : q ≠ x ∧ q ≠ 0xF := by simpa using hq
  exact (s.reg_writeResult x q v c).trans ((if_neg hVF).trans (if_neg hx))

/-- An instruction whose answer is a result, its flag and `PC <- NEXT` completes with the result in `V[x]`, unless that
is `VF`, the flag in `VF`, and that frame. -/
theorem exists_next_of_exec_writeResult_advance {i : Instr} {s : State} {x : Reg} {v : Byte} {c : Bool}
    (h : exec i s = .next (s.writeResult x v c).advance) :
    ∃ t, exec i s = .next t ∧ (x ≠ 0xF → t.reg x = v) ∧ t.reg 0xF = flagByte c ∧ t.PC = nextPC s ∧
      OnlyRegs [x, 0xF] s t :=
  ⟨_, h, fun hx => (s.reg_writeResult x x v c).trans ((if_neg hx).trans (if_pos rfl)),
    (s.reg_writeResult x VF v c).trans (if_pos rfl), s.next_eq_nextPC, s.onlyRegs_writeResult_advance x v c⟩

theorem exec_addReg (x y : Reg) (s : State) : exec (.addReg x y) s =
    .next (s.writeResult x (s.reg x + s.reg y) (carry (s.reg x) (s.reg y))).advance := rfl

theorem exec_sub (x y : Reg) (s : State) : exec (.sub x y) s =
    .next (s.writeResult x (s.reg x - s.reg y) (noBorrow (s.reg x) (s.reg y))).advance := rfl

theorem exec_subn (x y : Reg) (s : State) : exec (.subn x y) s =
    .next (s.writeResult x (s.reg y - s.reg x) (noBorrow (s.reg y) (s.reg x))).advance := rfl

theorem exec_shr (x y : Reg) (s : State) :
    exec (.shr x y) s = .next (s.writeResult x (s.reg x >>> 1) (lowBit (s.reg x))).advance := rfl

theorem exec_shl (x y : Reg) (s : State) :
    exec (.shl x y) s = .next (s.writeResult x (s.reg x <<< 1) (highBit (s.reg x))).advance := rfl

/-! ### Results and flags as numbers (R114 to R118) -/

theorem flagByte_carry (a b : Byte) : flagByte (carry a b) = if a.toNat + b.toNat > 255 then 1 else 0 := by
  simp [flagByte, carry]

theorem flagByte_noBorrow (a b : Byte) : flagByte (noBorrow a b) = if b.toNat > a.toNat then 0 else 1 := by
  simp only [flagByte, noBorrow, decide_eq_true_eq, gt_iff_lt, ← Nat.not_le, ite_not]

theorem toNat_byte_sub (a b : Byte) : (a - b).toNat = (a.toNat + 256 - b.toNat) % 256 := by
  rw [BitVec.toNat_sub]
  have := b.isLt
  omega

theorem toNat_flagByte (c : Bool) : (flagByte c).toNat = c.toNat := by cases c <;> rfl

theorem toNat_lowBit (a : Byte) : (lowBit a).toNat = a.toNat % 2 := by
  rw [lowBit, BitVec.getLsbD, Nat.testBit_zero]
  rcases Nat.mod_two_eq_zero_or_one a.toNat with h | h <;> rw [h] <;> rfl

theorem toNat_highBit (a : Byte) : (highBit a).toNat = a.toNat / 128 := by
  have hlt : a.toNat < 256 := a.isLt
  have hbit : a.toNat / 128 = 0 ∨ a.toNat / 128 = 1 := by omega
  rw [highBit, BitVec.getLsbD, Nat.testBit_eq_decide_div_mod_eq]
  rcases hbit with h | h <;> rw [h] <;> rfl

/-- Settles O25: the sum and the carry, the carry last. -/
theorem addWritesSumAndCarry : Obligations.AddWritesSumAndCarry := by
  intro s x y
  obtain ⟨t, hexec, hreg, hflag, hframe⟩ := exists_next_of_exec_writeResult_advance (exec_addReg x y s)
  exact ⟨t, hexec, fun hx => by rw [hreg hx, BitVec.toNat_add], hflag.trans (flagByte_carry _ _), hframe⟩

/-- Settles O26: the difference and the not-borrow, with the operands either way round. -/
theorem subtractionsWriteDifferenceAndNotBorrow : Obligations.SubtractionsWriteDifferenceAndNotBorrow := by
  intro s x y
  obtain ⟨t, hexec, hreg, hflag, hframe⟩ := exists_next_of_exec_writeResult_advance (exec_sub x y s)
  obtain ⟨t', hexec', hreg', hflag', hframe'⟩ := exists_next_of_exec_writeResult_advance (exec_subn x y s)
  exact ⟨⟨t, hexec, fun hx => by rw [hreg hx, toNat_byte_sub], hflag.trans (flagByte_noBorrow _ _), hframe⟩,
    t', hexec', fun hx => by rw [hreg' hx, toNat_byte_sub], hflag'.trans (flagByte_noBorrow _ _), hframe'⟩

/-- Settles O27: a shift is a division or a multiplication by 2, the flag the bit that is lost. -/
theorem shiftsMoveVxAndIgnoreY : Obligations.ShiftsMoveVxAndIgnoreY := by
  intro s x y
  obtain ⟨t, hexec, hreg, hflag, hframe⟩ := exists_next_of_exec_writeResult_advance (exec_shr x y s)
  obtain ⟨t', hexec', hreg', hflag', hframe'⟩ := exists_next_of_exec_writeResult_advance (exec_shl x y s)
  refine ⟨⟨t, hexec, fun hx => ?_, ?_, hframe⟩, t', hexec', fun hx => ?_, ?_, hframe'⟩
  · rw [hreg hx, BitVec.toNat_ushiftRight, Nat.shiftRight_one]
  · rw [hflag, toNat_flagByte, toNat_lowBit]
  · rw [hreg' hx, BitVec.toNat_shiftLeft, Nat.shiftLeft_eq, pow_one]
  · rw [hflag', toNat_flagByte, toNat_highBit]

/-! ### `ADD_I`, `LD_F` (R164, R165) -/

theorem exec_addI (x : Reg) (s : State) : exec (.addI x) s = .next (s.setI (s.I + zext16 (s.reg x))).advance := rfl

theorem exec_ldF (x : Reg) (s : State) : exec (.ldF x) s = .next (s.setI (glyphAddr (s.reg x))).advance := rfl

theorem toNat_glyphAddr (v : Byte) : (glyphAddr v).toNat = 5 * (v.toNat % 16) := by
  rw [glyphAddr, Config.glyphBase, Config.glyphStride, BitVec.toNat_ofNat]
  omega

/-- Settles O30: each writes one word to `I` and advances. -/
theorem indexArithmeticWritesIOnly : Obligations.IndexArithmeticWritesIOnly := by
  intro s x
  obtain ⟨t, hexec, hI, hframe⟩ := exists_next_of_exec_setI_advance (exec_addI x s)
  obtain ⟨t', hexec', hI', hframe'⟩ := exists_next_of_exec_setI_advance (exec_ldF x s)
  refine ⟨⟨t, hexec, ?_, hframe⟩, t', hexec', by rw [hI', toNat_glyphAddr], hframe'⟩
  rw [hI, zext16, BitVec.toNat_add, BitVec.toNat_setWidth_of_le (by decide)]

/-! ### `RND` (R132) -/

theorem exec_rnd (x : Reg) (nn : Byte) (s : State) :
    exec (.rnd x nn) s = .next (s.setReg x (s.rnd &&& nn)).freshRnd.advance := rfl

/-- Settles O31: the input byte under the mask in one register; the supply of bytes moves on. -/
theorem rndMasksTheInputByte : Obligations.RndMasksTheInputByte := by
  intro s x nn r
  refine ⟨_, exec_rnd x nn (s.withRnd r), fun k => ?_, s.next_eq_nextPC, s.sameRegsBut_setReg_advance x _, rfl,
    ⟨fun _ => rfl, rfl⟩, ⟨rfl, rfl⟩, ⟨rfl, rfl⟩, ⟨rfl, rfl⟩, ⟨rfl, rfl⟩, ⟨rfl, rfl⟩⟩
  rw [State.advance, State.setPC_reg, State.freshRnd_reg, State.reg_setReg_same, BitVec.getLsbD_and, State.withRnd_rnd]

end Sys2Proof.Machine
end

section
/-! PROOFS. `RESET`, `LOAD`, `TICK` and `KEY_DOWN` (spec/60_exceptions.md, spec/70_reset_and_hazards.md). -/

namespace Sys2Proof.Machine

open Sys2Proof.Claims

/-! ### `RESET` (R210, R211) -/

/-! Memory that lists no cell holds the glyph table and zeros (R27, R48). -/

theorem resetByte_glyph (g : GlyphTable) (a : Fin 80) : resetByte g a.val = g[a] := dif_pos a.isLt

theorem resetByte_of_le (g : GlyphTable) {a : Nat} (h : 80 ≤ a) : resetByte g a = 0 := dif_neg (Nat.not_lt.mpr h)

/-- Settles O50: each element is read off the reset state, which does not depend on what was there before. -/
theorem resetSetsEveryElement : Obligations.ResetSetsEveryElement := by
  intro s
  refine ⟨s.hostReset, rfl, resetWith_reg s.mem.glyphs, rfl, rfl, rfl, fun k => ?stack, rfl, rfl, fun k => ?keys,
    resetWith_pixel s.mem.glyphs, rfl, rfl, rfl, rfl, resetByte_glyph _,
    fun a => resetByte_of_le s.mem.glyphs, rfl, ⟨rfl, rfl⟩, rfl⟩
  case stack => exact Vector.getElem_replicate ..
  case keys => exact Vector.getElem_replicate ..

/-! ### `LOAD` (R184, R212) -/

/-- A block store changes nothing but memory. -/
theorem State.storeBytes_eq_setMem (s : State) (a : Word) (bs : List Byte) :
    s.storeBytes a bs = s.setMem (s.storeBytes a bs).mem := by
  induction bs generalizing s a with
  | nil => rfl
  | cons b rest ih => rw [State.storeBytes, ih]; rfl

/-- The cells of an image: `LOAD` never wraps around (R212). -/
theorem ea_image {j : Nat} (hj : j < 3584) : ea (0x200 + BitVec.ofNat 16 j) = 0x200 + j := by
  rw [ea_add_ofNat, show (0x200 : Word).toNat = 0x200 from rfl]
  omega

theorem State.read_image (s : State) {bytes : List Byte} (hl : bytes.length ≤ 3584) {j : Nat} (hj : j < bytes.length) :
    (s.storeBytes 0x200 bytes).mem.read (0x200 + j) = bytes[j] := by
  rw [← ea_image (by omega)]
  exact s.read_storeBytes_inside 0x200 bytes (by omega) j hj

theorem State.read_outside_image (s : State) {bytes : List Byte} (hl : bytes.length ≤ 3584) {a : Nat}
    (ha : a < 0x200 ∨ 0x200 + bytes.length ≤ a) : (s.storeBytes 0x200 bytes).mem.read a = s.mem.read a := by
  refine s.read_storeBytes_outside 0x200 bytes a fun k hk => ?_
  rw [ea_image (by omega)]
  omega

/-- Settles O51: an image that fits is a block store from 0x200 on. -/
theorem loadCopiesTheImageOrRejectsIt : Obligations.LoadCopiesTheImageOrRejectsIt := by
  intro s bytes
  obtain ⟨hlong, hload⟩ | ⟨hshort, hload⟩ := s.load_cases bytes
  · exact ⟨fun h => absurd hlong (Nat.not_lt.mpr h), fun _ => hload⟩
  · refine ⟨fun _ => ⟨_, hload, fun j hj => s.read_image hshort hj, fun a _ ha => s.read_outside_image hshort ha,
      s.storeBytes_glyphs .., ?_⟩, fun h => absurd h (Nat.not_lt.mpr hshort)⟩
    rw [s.storeBytes_eq_setMem]
    rfl

/-- Settles O52: after RESET `PC` is where the image begins. -/
theorem firstStepRunsTheImage : Obligations.FirstStepRunsTheImage := by
  intro s hi lo rest i hlen hd
  have hfits : (hi :: lo :: rest).length ≤ 3584 := by simp only [List.length_cons]; omega
  obtain ⟨hlong, -⟩ | ⟨-, hload⟩ := s.hostReset.load_cases (hi :: lo :: rest)
  · exact absurd hfits (Nat.not_le.mpr hlong)
  · have hPC : (s.hostReset.storeBytes 0x200 (hi :: lo :: rest)).PC = 0x200 := s.hostReset.storeBytes_PC ..
    refine ⟨_, hload, hPC, step_decoded (s.hostReset.storeBytes_waiting ..) ?_⟩
    have hhigh := s.hostReset.read_image hfits (j := 0) (by simp)
    have hlow := s.hostReset.read_image hfits (j := 1) (by simp)
    rw [State.fetchWord_eq, hPC]
    exact (congrArg₂ (fun a b : Byte => decodeWord (a ++ b)) hhigh hlow).trans hd

/-! ### `TICK` (R162, R192) -/

theorem State.tick_soundFlag_iff (s : State) :
    s.tick.soundFlag = true ↔ s.soundFlag = true ∨ s.ST.toNat = 1 := by
  by_cases h : s.ST.toNat = 1
  · simp [State.tick_soundFlag_of_eq_one h, h]
  · simp [State.tick_soundFlag_of_ne_one h, h]

/-- Settles O54: by induction on the ticks, the first of which counts each timer down by one. -/
theorem timersReachZeroAfterTheirValue : Obligations.TimersReachZeroAfterTheirValue := by
  intro n
  induction n with
  | zero => intro s; simp [ticks]; omega
  | succ n ih =>
    intro s
    obtain ⟨hDT, hST, hsound⟩ := ih s.tick
    have hDT' : s.tick.DT.toNat = s.DT.toNat - 1 := toNat_countDown s.DT
    have hST' : s.tick.ST.toNat = s.ST.toNat - 1 := toNat_countDown s.ST
    refine ⟨?_, ?_, hsound.trans ?_⟩
    · rw [ticks, hDT, hDT', Nat.sub_sub, Nat.add_comm]
    · rw [ticks, hST, hST', Nat.sub_sub, Nat.add_comm]
    · rw [s.tick_soundFlag_iff, hST', or_assoc]
      have hedge : (s.ST.toNat = 1 ∨ 0 < s.ST.toNat - 1 ∧ s.ST.toNat - 1 ≤ n) ↔
          0 < s.ST.toNat ∧ s.ST.toNat ≤ n + 1 := by omega
      rw [hedge]

/-! ### `KEY_DOWN` (R193) -/

theorem toNat_byteOfKey (k : Key) : (byteOfKey k).toNat = k.val := by
  rw [byteOfKey, BitVec.toNat_ofNat]
  omega

/-- Settles O55: a block that waits has its register written and goes on; a block that does not has its key set. -/
theorem keyDownCompletesThePendingWait : Obligations.KeyDownCompletesThePendingWait := by
  intro s k
  refine ⟨s.keyDown k, rfl, ?_⟩
  cases hw : s.waiting with
  | true =>
    rw [State.keyDown_waiting hw]
    refine ⟨fun j => s.getElem_keys_setKey k j true, fun _ => ⟨?_, fun q hq => ?_, s.next_eq_nextPC⟩,
      fun h => absurd h (by decide), rfl, rfl, ⟨fun _ => rfl, rfl⟩, ⟨rfl, rfl⟩, ⟨rfl, rfl⟩, ⟨rfl, rfl⟩, rfl, ⟨rfl, rfl⟩⟩
    · rw [State.setWait_reg, State.setPC_reg, State.reg_setReg_same, toNat_byteOfKey]
    · rw [State.setWait_reg, State.setPC_reg, State.reg_setReg_ne _ (List.ne_of_not_mem_cons hq), State.setKey_reg]
  | false =>
    rw [State.keyDown_ready hw]
    exact ⟨fun j => s.getElem_keys_setKey k j true, fun h => absurd h (by decide), fun _ => ⟨fun _ _ => rfl, rfl, rfl⟩,
      hw, rfl, ⟨fun _ => rfl, rfl⟩, ⟨rfl, rfl⟩, ⟨rfl, rfl⟩, ⟨rfl, rfl⟩, rfl, ⟨rfl, rfl⟩⟩

end Sys2Proof.Machine
end

section
/-! PROOFS. Draw (spec/45_draw.md): the pixels under the sprite, the same draw twice, and the pixel loop of R140. -/

namespace Sys2Proof.Machine

open Sys2Proof.Claims

/-! ### The mask of a draw is the set `S` of R142 -/

/-- The mask with which `DRW x y n` inverts the display. -/
def State.drwMask (s : State) (x y : Reg) (n : Fin 16) : Display :=
  s.spriteMask (startColumn (s.reg x)) (startRow (s.reg y)) n.val

theorem exec_drw (x y : Reg) (n : Fin 16) (s : State) :
    exec (.drw x y n) s = .next (s.drawMask (s.drwMask x y n)).advance := rfl

/-- Column `c` of a byte is bit `7 - c`, and there are eight of them. -/
theorem getMsbD_byte_iff (b : Byte) (c : Nat) : b.getMsbD c = true ↔ c < 8 ∧ b.getLsbD (7 - c) = true := by
  by_cases h : c < 8
  · rw [getMsbD_byte b c h, and_iff_right h]
  · simp [BitVec.getMsbD_of_ge b c (Nat.le_of_not_lt h), h]

theorem drwMask_iff (s : State) (x y : Reg) (n : Fin 16) (r : Fin 32) (c : Fin 64) :
    (s.drwMask x y n)[r].getMsbD c.val = true ↔ UnderSprite s x y n r c := by
  simp only [State.drwMask, startColumn, startRow, Fin.getElem_fin, State.getElem_spriteMask]
  rw [State.getMsbD_spriteRow _ _ _ _ _ _ c.isLt, Bool.and_eq_true, Bool.and_eq_true, decide_eq_true_eq,
    decide_eq_true_eq, getMsbD_byte_iff, UnderSprite]
  constructor
  · rintro ⟨⟨hy, hyn⟩, hx, hx8, hbit⟩
    exact ⟨hx, by omega, hy, hyn, hbit⟩
  · rintro ⟨hx, hx8, hy, hyn, hbit⟩
    exact ⟨⟨hy, hyn⟩, hx, by omega, hbit⟩

theorem drwMask_false_iff (s : State) (x y : Reg) (n : Fin 16) (r : Fin 32) (c : Fin 64) :
    (s.drwMask x y n)[r].getMsbD c.val = false ↔ ¬ UnderSprite s x y n r c := by
  rw [← drwMask_iff, Bool.not_eq_true]

theorem collides_drwMask_iff (s : State) (x y : Reg) (n : Fin 16) :
    collides s.display (s.drwMask x y n) = true ↔ ∃ r c, UnderSprite s x y n r c ∧ s.pixel r c = true := by
  rw [collides_iff]
  exact exists_congr fun r => exists_congr fun c => and_comm.trans (and_congr_left' (drwMask_iff s x y n r c))

/-! ### One draw (R140, R141) -/

/-- The frame of an instruction that writes the bitmap, `VF` and `drawFlag`, whatever the bitmap and the flag are. -/
theorem State.frame_draw_advance (s : State) (d : Display) (v : Byte) :
    let t := (((s.setDisplay d).setReg VF v).setDrawFlag true).advance
    t.drawFlag = true ∧ t.PC = nextPC s ∧ SameRegsBut [0xF] s t ∧ t.I = s.I ∧ SameMemory s t ∧ SameRest s t :=
  ⟨rfl, s.next_eq_nextPC, fun _ hq => (s.setDisplay d).reg_setReg_ne (List.ne_of_not_mem_cons hq) v, rfl,
    ⟨fun _ => rfl, rfl⟩, ⟨rfl, rfl⟩, ⟨rfl, rfl⟩, ⟨rfl, rfl⟩, ⟨rfl, rfl⟩, ⟨rfl, rfl⟩⟩

theorem State.pixel_drawMask_advance (s : State) (m : Display) (r : Fin 32) (c : Fin 64) :
    (s.drawMask m).advance.pixel r c = (s.pixel r c ^^ m[r].getMsbD c.val) := by
  rw [State.advance_eq, State.setPC_pixel, s.pixel_drawMask m r c]

theorem State.VF_drawMask_advance (s : State) (m : Display) :
    (s.drawMask m).advance.reg 0xF = flagByte (collides s.display m) := by
  rw [State.advance_eq, State.setPC_reg, s.reg_drawMask, if_pos rfl]

/-- Settles O32: an exclusive-OR inverts the pixels of the mask and no others, and the mask is the sprite. -/
theorem drawInvertsExactlyTheSprite : Obligations.DrawInvertsExactlyTheSprite := by
  intro s x y n
  refine ⟨_, exec_drw x y n s, fun r c hu => ?_, fun r c hu => ?_, fun hhit => ?_, fun hmiss => ?_,
    s.frame_draw_advance _ _⟩
  · rw [State.pixel_drawMask_advance, (drwMask_iff s x y n r c).mpr hu, Bool.xor_true]
  · rw [State.pixel_drawMask_advance, (drwMask_false_iff s x y n r c).mpr hu, Bool.xor_false]
  · rw [State.VF_drawMask_advance, flagByte_eq_one, collides_drwMask_iff]
    exact hhit
  · rw [State.VF_drawMask_advance, flagByte_eq_zero, ← Bool.not_eq_true, collides_drwMask_iff]
    exact hmiss

/-! ### The same draw twice (R142) -/

/-- The sprite is read from memory at `I`. -/
theorem State.spriteMask_congr {s t : State} (hI : t.I = s.I) (hmem : ∀ a, t.readMem a = s.readMem a) (x0 y0 n : Nat) :
    t.spriteMask x0 y0 n = s.spriteMask x0 y0 n := by
  simp only [State.spriteMask, State.spriteRow, hI, hmem]

/-- A draw whose coordinates are not in `VF` leaves its own mask as it was. -/
theorem State.drwMask_drawMask_advance (s : State) (m : Display) {x y : Reg} (n : Fin 16) (hx : x ≠ VF) (hy : y ≠ VF) :
    (s.drawMask m).advance.drwMask x y n = s.drwMask x y n := by
  obtain ⟨-, -, hregs, hI, ⟨hmem, -⟩, -⟩ := s.frame_draw_advance (xorDisplay s.display m)
    (flagByte (collides s.display m))
  have hreg {q : Reg} (hq : q ≠ VF) : (s.drawMask m).advance.reg q = s.reg q := hregs q (by simpa using hq)
  rw [State.drwMask, State.drwMask, hreg hx, hreg hy]
  exact State.spriteMask_congr hI hmem _ _ _

theorem xorDisplay_xorDisplay (d m : Display) : xorDisplay (xorDisplay d m) m = d := by
  apply Vector.ext
  intro r hr
  rw [getElem_xorDisplay, getElem_xorDisplay, BitVec.xor_assoc, BitVec.xor_self, BitVec.xor_zero]

/-- Settles O34: the second draw has the same mask, and collides where the first one set a pixel. -/
theorem drawTwiceRestoresTheDisplay : Obligations.DrawTwiceRestoresTheDisplay := by
  intro s t u x y n hx hy hst htu
  obtain rfl := Host.Outcome.next.inj ((exec_drw x y n s).symm.trans hst)
  rw [exec_drw, s.drwMask_drawMask_advance _ n hx hy] at htu
  obtain rfl := Host.Outcome.next.inj htu
  refine ⟨xorDisplay_xorDisplay s.display _, ?_⟩
  rw [State.VF_drawMask_advance, flagByte_eq_one, collides_iff]
  refine exists_congr fun r => exists_congr fun c => ?_
  rw [← drwMask_iff, and_comm]
  refine and_congr_right fun hm => ?_
  have hpixel := s.pixel_drawMask_advance (s.drwMask x y n) r c
  rw [hm, Bool.xor_true] at hpixel
  exact (Bool.eq_iff_iff.mp hpixel).trans (by rw [Bool.not_eq_true'])

end Sys2Proof.Machine
end

section
/-! PROOFS. The pixel loop of spec/45_draw.md R140: each sprite pixel is plotted once, so the loop inverts the same
pixels as the exclusive-OR with the mask, and meets the same collisions. -/

namespace Sys2Proof.Machine

open Sys2Proof.Claims

section Loop

variable (s : State) (x0 y0 : Nat)

/-- Sprite pixel `p`, a row and a column of the sprite, is a 1 bit that lies on the screen. -/
def litOnScreen (p : Nat × Nat) : Bool :=
  (s.readMem (s.I + BitVec.ofNat 16 p.1)).getLsbD (7 - p.2) && decide (x0 + p.2 ≤ 63) && decide (y0 + p.1 ≤ 31)

/-- Sprite pixel `p` is lit and falls on screen pixel `(r, c)`. -/
def litAt (r c : Nat) (p : Nat × Nat) : Bool := litOnScreen s x0 y0 p && decide (r = y0 + p.1 ∧ c = x0 + p.2)

/-- Sprite pixel `p` is lit and falls on a set pixel of the canvas. -/
def hitsAt (cv : Canvas) (p : Nat × Nat) : Bool := litOnScreen s x0 y0 p && cv.px (y0 + p.1) (x0 + p.2)

/-- The body of the loops for sprite pixel `p`. -/
def plotPixel (cv : Canvas) (p : Nat × Nat) : Canvas :=
  plot x0 y0 p.1 (s.readMem (s.I + BitVec.ofNat 16 p.1)) cv p.2

/-! ### One plot -/

theorem litOnScreen_iff (p : Nat × Nat) : litOnScreen s x0 y0 p = true ↔
    (s.readMem (s.I + BitVec.ofNat 16 p.1)).getLsbD (7 - p.2) = true ∧ x0 + p.2 ≤ 63 ∧ y0 + p.1 ≤ 31 := by
  simp only [litOnScreen, Bool.and_eq_true, decide_eq_true_eq, and_assoc]

theorem plotPixel_of_lit (cv : Canvas) {p : Nat × Nat} (h : litOnScreen s x0 y0 p = true) :
    plotPixel s x0 y0 cv p =
      { px := fun r c => if r = y0 + p.1 ∧ c = x0 + p.2 then !(cv.px r c) else cv.px r c
        hit := cv.hit || cv.px (y0 + p.1) (x0 + p.2) } := if_pos ((litOnScreen_iff s x0 y0 p).mp h)

theorem plotPixel_of_not_lit (cv : Canvas) {p : Nat × Nat} (h : litOnScreen s x0 y0 p = false) :
    plotPixel s x0 y0 cv p = cv :=
  if_neg fun hlit => Bool.false_ne_true (h.symm.trans ((litOnScreen_iff s x0 y0 p).mpr hlit))

theorem plotPixel_px (cv : Canvas) (p : Nat × Nat) (r c : Nat) :
    (plotPixel s x0 y0 cv p).px r c = (cv.px r c ^^ litAt s x0 y0 r c p) := by
  cases h : litOnScreen s x0 y0 p with
  | true =>
    rw [plotPixel_of_lit s x0 y0 cv h, litAt, h, Bool.true_and]
    by_cases hat : r = y0 + p.1 ∧ c = x0 + p.2 <;> simp [hat]
  | false => rw [plotPixel_of_not_lit s x0 y0 cv h, litAt, h, Bool.false_and, Bool.xor_false]

theorem plotPixel_hit (cv : Canvas) (p : Nat × Nat) :
    (plotPixel s x0 y0 cv p).hit = (cv.hit || hitsAt s x0 y0 cv p) := by
  cases h : litOnScreen s x0 y0 p with
  | true => rw [plotPixel_of_lit s x0 y0 cv h, hitsAt, h, Bool.true_and]
  | false => rw [plotPixel_of_not_lit s x0 y0 cv h, hitsAt, h, Bool.false_and, Bool.or_false]

/-! ### All plots -/

/-- Two sprite pixels do not fall on one screen pixel. -/
theorem litAt_inj {r c : Nat} {p q : Nat × Nat} (hp : litAt s x0 y0 r c p = true) (hq : litAt s x0 y0 r c q = true) :
    p = q := by
  simp only [litAt, Bool.and_eq_true, decide_eq_true_eq] at hp hq
  exact Prod.ext (by omega) (by omega)

theorem foldl_plotPixel_px (ps : List (Nat × Nat)) (hps : ps.Nodup) (cv : Canvas) (r c : Nat) :
    (ps.foldl (plotPixel s x0 y0) cv).px r c = (cv.px r c ^^ ps.any (litAt s x0 y0 r c)) := by
  induction ps generalizing cv with
  | nil => simp
  | cons p rest ih =>
    obtain ⟨hp, hrest⟩ := List.nodup_cons.mp hps
    rw [List.foldl_cons, ih hrest, plotPixel_px, List.any_cons]
    cases hlit : litAt s x0 y0 r c p with
    | false => simp
    | true =>
      have hno : rest.any (litAt s x0 y0 r c) = false := by
        simp only [List.any_eq_false]
        exact fun q hq hlit' => hp (litAt_inj s x0 y0 hlit hlit' ▸ hq)
      rw [hno]
      simp

/-- A plot on one pixel does not change whether another one hits. -/
theorem hitsAt_plotPixel (cv : Canvas) {p q : Nat × Nat} (hpq : p ≠ q) :
    hitsAt s x0 y0 (plotPixel s x0 y0 cv p) q = hitsAt s x0 y0 cv q := by
  rw [hitsAt, hitsAt, plotPixel_px]
  have hno : litAt s x0 y0 (y0 + q.1) (x0 + q.2) p = false := by
    rw [litAt, Bool.and_eq_false_iff, decide_eq_false_iff_not]
    exact .inr fun ⟨hrow, hcol⟩ => hpq (Prod.ext (by omega) (by omega))
  rw [hno, Bool.xor_false]

theorem foldl_plotPixel_hit (ps : List (Nat × Nat)) (hps : ps.Nodup) (cv : Canvas) :
    (ps.foldl (plotPixel s x0 y0) cv).hit = (cv.hit || ps.any (hitsAt s x0 y0 cv)) := by
  induction ps generalizing cv with
  | nil => simp
  | cons p rest ih =>
    obtain ⟨hp, hrest⟩ := List.nodup_cons.mp hps
    rw [List.foldl_cons, ih hrest, plotPixel_hit, List.any_cons, Bool.or_assoc]
    have hrest' : rest.any (hitsAt s x0 y0 (plotPixel s x0 y0 cv p)) = rest.any (hitsAt s x0 y0 cv) := by
      rw [Bool.eq_iff_iff, List.any_eq_true, List.any_eq_true]
      refine exists_congr fun q => and_congr_right fun hq => ?_
      have hne : p ≠ q := fun h => hp (h ▸ hq)
      rw [hitsAt_plotPixel s x0 y0 cv hne]
    rw [hrest']

/-! ### The two loops -/

/-- The canvas the loops of R140 start from. -/
def startCanvas : Canvas := { px := fun r c => (s.display.toList.getD r 0).getMsbD c, hit := false }

/-- The sprite pixels in the order the loops visit them. -/
def spritePixels (n : Nat) : List (Nat × Nat) := (List.range n).product (List.range 8)

theorem mem_spritePixels {n : Nat} {p : Nat × Nat} : p ∈ spritePixels n ↔ p.1 < n ∧ p.2 < 8 := by
  rw [spritePixels, ← Prod.mk.eta (p := p), List.pair_mem_product, List.mem_range, List.mem_range]

theorem nodup_spritePixels (n : Nat) : (spritePixels n).Nodup := List.nodup_range.product List.nodup_range

theorem drawLoop_eq_foldl (n : Nat) :
    drawLoop s x0 y0 n = (spritePixels n).foldl (plotPixel s x0 y0) (startCanvas s) := by
  simp only [spritePixels, List.product, List.foldl_flatMap, List.foldl_map]
  rfl

end Loop

/-! ### The loop and the mask -/

theorem startCanvas_px (s : State) (r : Fin 32) (c : Fin 64) : (startCanvas s).px r.val c.val = s.pixel r c := by
  simp [startCanvas, State.pixel, List.getD]

/-- The screen pixels on which a lit sprite pixel falls are those under the sprite. -/
theorem any_litAt_iff (s : State) (x y : Reg) (n : Fin 16) (r : Fin 32) (c : Fin 64) :
    (spritePixels n.val).any (litAt s ((s.reg x).toNat % 64) ((s.reg y).toNat % 32) r.val c.val) = true ↔
      UnderSprite s x y n r c := by
  simp only [List.any_eq_true, mem_spritePixels, litAt, Bool.and_eq_true, litOnScreen_iff, decide_eq_true_eq,
    UnderSprite]
  constructor
  · rintro ⟨⟨row, col⟩, ⟨hrow, hcol⟩, ⟨hbit, -, -⟩, hr, hc⟩
    refine ⟨by omega, by omega, by omega, by omega, ?_⟩
    rwa [hr, hc, Nat.add_sub_cancel_left, Nat.add_sub_cancel_left]
  · rintro ⟨hx, hx8, hy, hyn, hbit⟩
    exact ⟨(r.val - (s.reg y).toNat % 32, c.val - (s.reg x).toNat % 64), ⟨by omega, by omega⟩,
      ⟨hbit, by omega, by omega⟩, by omega, by omega⟩

/-- The loop hits exactly when a pixel under the sprite is set. -/
theorem any_hitsAt_iff (s : State) (x y : Reg) (n : Fin 16) :
    (spritePixels n.val).any (hitsAt s ((s.reg x).toNat % 64) ((s.reg y).toNat % 32) (startCanvas s)) = true ↔
      ∃ r c, UnderSprite s x y n r c ∧ s.pixel r c = true := by
  simp only [← any_litAt_iff, List.any_eq_true, litAt, hitsAt, Bool.and_eq_true, decide_eq_true_eq]
  constructor
  · rintro ⟨p, hp, hlit, hpx⟩
    obtain ⟨-, hcol, hrow⟩ := (litOnScreen_iff ..).mp hlit
    refine ⟨⟨(s.reg y).toNat % 32 + p.1, by omega⟩, ⟨(s.reg x).toNat % 64 + p.2, by omega⟩,
      ⟨p, hp, hlit, rfl, rfl⟩, ?_⟩
    rw [← startCanvas_px, hpx]
  · rintro ⟨r, c, ⟨p, hp, hlit, hr, hc⟩, hpx⟩
    exact ⟨p, hp, hlit, by rw [← hr, ← hc, startCanvas_px, hpx]⟩

/-- Settles O33: the loop plots each sprite pixel once, so it inverts the pixels under the sprite, as the mask does. -/
theorem drawIsThePixelLoop : Obligations.DrawIsThePixelLoop := by
  intro s t x y n h
  obtain rfl := Host.Outcome.next.inj ((exec_drw x y n s).symm.trans h)
  rw [drawLoop_eq_foldl]
  have hnodup := nodup_spritePixels n.val
  constructor
  · intro r c
    rw [foldl_plotPixel_px s _ _ _ hnodup, startCanvas_px, State.pixel_drawMask_advance]
    congr 1
    rw [Bool.eq_iff_iff, drwMask_iff, any_litAt_iff]
  · have hhit : collides s.display (s.drwMask x y n) = (spritePixels n.val).any (hitsAt s _ _ (startCanvas s)) :=
      Bool.eq_iff_iff.mpr ((collides_drwMask_iff s x y n).trans (any_hitsAt_iff s x y n).symm)
    rw [State.VF_drawMask_advance, foldl_plotPixel_hit s _ _ _ hnodup, hhit]
    rfl

end Sys2Proof.Machine
end
